-- ==== Sys2Proof/Word.lean ====
section
/-! DEFINITION. The word types of the TCRH-128 core (spec/00_scope.md R8): bytes, 128-bit blocks, 32-bit headers, and the
fixed-length byte buffers and schedules of spec/10_state.md R12 and R13. -/

namespace Sys2Proof

/-- `u8` of R8. -/
abbrev Byte := BitVec 8

/-- `u128` of R8: the unit every operand, result and round key is made of. -/
abbrev Block := BitVec 128

/-- A command header (R50) or a response header (R56), 32 bits. -/
abbrev Header := BitVec 32

/-- `bytes16` of R8: `b[0]` is the first byte. -/
abbrev Bytes16 := Vector Byte 16

/-- The 176-byte buffer of R13 and R70: 11 consecutive 16-byte round keys in round order. -/
abbrev Bytes176 := Vector Byte 176

/-- One word of the key expansion, four bytes (R73). -/
abbrev Word4 := Vector Byte 4

/-- A round-key schedule held as 11 values of 128 bits, `RK[c][0] .. RK[c][10]` (R12). -/
abbrev Schedule := Vector Block 11

end Sys2Proof
end

