-- ==== Sys2Proof/Config.lean ====
section
/-! DEFINITION. The parameters of spec/00_scope.md R7: their ranges and the values of the reference configuration. A state carries
its own parameters (Machine/State.lean), so a statement about every state is about every configuration; the values here are
those of `State.reset` only. -/

namespace Sys2Proof

/-- `NCTX` ranges over 1 to 16 (R7). -/
def Config.nctxMin : Nat := 1

/-- `NCTX` ranges over 1 to 16 (R7): what a 4-bit context field can name. -/
def Config.nctxMax : Nat := 16

/-- Reference value of `NCTX` (R7). -/
def Config.refNctx : Nat := 4

/-- Reference value of `DEFAULT_RK` (R7): none. -/
def Config.refDefaultRk : Option Schedule := none

/-- Reference value of `engine_ok` (R7): always true. -/
def Config.refEngineOk : Bool := true

end Sys2Proof
end

