-- ==== Sys2Proof/Syntax.lean ====
section
/-! DEFINITION. The commands of the core: raw commands as the port takes them (spec/30_encoding.md R50), the eight operations
(R52) and the decoded commands with their operands (R53). -/

namespace Sys2Proof

/-- A command as the host presents it: a header and its operand blocks, `OP[0]` first (R50). -/
structure Command where
  header : Header
  ops    : List Block
deriving DecidableEq, Repr

/-- The eight operations of the opcode map (R52). -/
inductive Opcode where
  | keyload | keycopy | keydrop | enc | dbl | hash | hash2 | stat
deriving DecidableEq, Repr

/-- A decoded command (R53). Context numbers are plain numbers; `Instr.wellFormed` says they fit their 4-bit fields. -/
inductive Instr where
  /-- `KEYLOAD c, key` (R103). -/
  | keyload (c : Nat) (key : Block)
  /-- `KEYCOPY d, src` (R104). -/
  | keycopy (d src : Nat)
  /-- `KEYDROP c` (R105). -/
  | keydrop (c : Nat)
  /-- `ENC c, x` (R106). -/
  | enc (c : Nat) (x : Block)
  /-- `DBL x` (R121). -/
  | dbl (x : Block)
  /-- `HASH c, tweak, x` (R132). -/
  | hash (c : Nat) (tweak x : Block)
  /-- `HASH2 c, tweak, x, y` (R133). -/
  | hash2 (c : Nat) (tweak x y : Block)
  /-- `STAT` (R140). -/
  | stat
deriving DecidableEq, Repr

/-- The operation a decoded command carries out (R52). -/
def Instr.opcode : Instr → Opcode
  | .keyload _ _ => .keyload
  | .keycopy _ _ => .keycopy
  | .keydrop _ => .keydrop
  | .enc _ _ => .enc
  | .dbl _ => .dbl
  | .hash _ _ _ => .hash
  | .hash2 _ _ _ _ => .hash2
  | .stat => .stat

end Sys2Proof
end

