-- ==== Sys2Proof/WellFormed.lean ====
section
/-! DEFINITION. Which decoded commands an encoding exists for: each context number fits its 4-bit field (spec/30_encoding.md R51, R54).
A context number `>= NCTX` is well-formed as an encoding and faults later (R55). -/

namespace Sys2Proof

/-- The number fits a 4-bit header field (R54). -/
def fitsField (c : Nat) : Bool := decide (c < 16)

/-- Every context number the command carries fits its field (R51). -/
def Instr.wellFormed : Instr → Bool
  | .keyload c _ => fitsField c
  | .keycopy d src => fitsField d && fitsField src
  | .keydrop c => fitsField c
  | .enc c _ => fitsField c
  | .dbl _ => true
  | .hash c _ _ => fitsField c
  | .hash2 c _ _ _ => fitsField c
  | .stat => true

end Sys2Proof
end

