-- ==== Sys2Proof/Decode.lean ====
section
/-! DEFINITION. Decoding a command (spec/30_encoding.md R51 to R57), strict and total: a header and a list of operand blocks give a
decoded command or a named reason for refusing it. Then the encoder, written from R51 and R58. -/

namespace Sys2Proof

/-- A row of the table of R55. -/
structure Row where
  op        : Opcode
  matchBits : Header
  mask      : Header
  nOps      : Nat
deriving DecidableEq, Repr

/-- The table of R55, in its order. -/
def opcodeTable : List Row :=
  [ ⟨.keyload, 0x00000001, 0xFFFFFF0F, 1⟩,
    ⟨.keycopy, 0x00000002, 0xFFFFF00F, 0⟩,
    ⟨.keydrop, 0x00000003, 0xFFFFFF0F, 0⟩,
    ⟨.enc,     0x00000004, 0xFFFFFF0F, 1⟩,
    ⟨.dbl,     0x00000005, 0xFFFFFFFF, 1⟩,
    ⟨.hash,    0x00000006, 0xFFFFFF0F, 2⟩,
    ⟨.hash2,   0x00000007, 0xFFFFFF0F, 3⟩,
    ⟨.stat,    0x00000008, 0xFFFFFFFF, 0⟩ ]

/-- `header & mask(M) = match(M)` (R55). -/
def Row.fits (r : Row) (h : Header) : Bool := h &&& r.mask == r.matchBits

/-- `OPCODE = header[3:0]` (R51). -/
def opcodeField (h : Header) : BitVec 4 := h.extractLsb' 0 4

/-- `CTX = header[7:4]` (R54). -/
def ctxField (h : Header) : Nat := (h.extractLsb' 4 4).toNat

/-- `SRC = header[11:8]` (R54). -/
def srcField (h : Header) : Nat := (h.extractLsb' 8 4).toNat

/-- Bits 31:12, reserved, must be 0 (R51). -/
def reservedField (h : Header) : BitVec 20 := h.extractLsb' 12 20

/-- Why a command decodes to nothing: the list of R55. DESIGN CHOICE, safe (log entry 7): the names are the model's; the core
tells the host ILLEGAL_CMD in every case. -/
inductive DecodeError where
  /-- `OPCODE = 0`. -/
  | zeroOpcode
  /-- `OPCODE` in 9 .. 15. -/
  | reservedOpcode
  /-- A bit of 31:12 is set. -/
  | reservedBits
  /-- `SRC != 0` in a command other than KEYCOPY. -/
  | sourceNotZero
  /-- `CTX != 0` in DBL or STAT. -/
  | contextNotZero
  /-- Too few or too many operand blocks. -/
  | wrongOperandCount
deriving DecidableEq, Repr

/-- The name of the refusal for a header that no row of R55 fits. -/
def rejectReason (h : Header) : DecodeError :=
  if opcodeField h = 0 then .zeroOpcode
  else if 9 ≤ (opcodeField h).toNat then .reservedOpcode
  else if reservedField h ≠ 0 then .reservedBits
  else if opcodeField h ≠ 2 ∧ srcField h ≠ 0 then .sourceNotZero
  else .contextNotZero

/-- `OP[k]`, numbered in the order the blocks follow the header (R50). -/
def operand (ops : List Block) (k : Nat) : Block := ops.getD k 0

/-- The decoded command of a row, its fields from the header (R54) and its operands in the order of R53. -/
def assemble (op : Opcode) (h : Header) (ops : List Block) : Instr :=
  match op with
  | .keyload => .keyload (ctxField h) (operand ops 0)
  | .keycopy => .keycopy (ctxField h) (srcField h)
  | .keydrop => .keydrop (ctxField h)
  | .enc => .enc (ctxField h) (operand ops 0)
  | .dbl => .dbl (operand ops 0)
  | .hash => .hash (ctxField h) (operand ops 0) (operand ops 1)
  | .hash2 => .hash2 (ctxField h) (operand ops 0) (operand ops 1) (operand ops 2)
  | .stat => .stat

/-- Decoding by the table of R55: the row that fits the header, and its number of operand blocks. -/
def decode (h : Header) (ops : List Block) : Except DecodeError Instr :=
  match opcodeTable.find? (fun r => r.fits h) with
  | none => .error (rejectReason h)
  | some r => if ops.length = r.nOps then .ok (assemble r.op h ops) else .error .wrongOperandCount

/-- `c << 4`, the CTX field in place (R58). -/
def ctxBits (c : Nat) : Header := BitVec.ofNat 32 c <<< 4

/-- `s << 8`, the SRC field in place (R58). -/
def srcBits (c : Nat) : Header := BitVec.ofNat 32 c <<< 8

/-- The command a decoded command is written as (R58). -/
def encode : Instr → Command
  | .keyload c key => ⟨0x00000001 ||| ctxBits c, [key]⟩
  | .keycopy d src => ⟨0x00000002 ||| ctxBits d ||| srcBits src, []⟩
  | .keydrop c => ⟨0x00000003 ||| ctxBits c, []⟩
  | .enc c x => ⟨0x00000004 ||| ctxBits c, [x]⟩
  | .dbl x => ⟨0x00000005, [x]⟩
  | .hash c tweak x => ⟨0x00000006 ||| ctxBits c, [tweak, x]⟩
  | .hash2 c tweak x y => ⟨0x00000007 ||| ctxBits c, [tweak, x, y]⟩
  | .stat => ⟨0x00000008, []⟩

/-- How many operand blocks follow the header, read from `OPCODE` alone; 0 for an `OPCODE` with no row (R57). -/
def operandCount (h : Header) : Nat :=
  match opcodeTable.find? (fun r => opcodeField r.matchBits == opcodeField h) with
  | none => 0
  | some r => r.nOps

/-- The command's length in bits (R57). -/
def commandBits (h : Header) : Nat := 32 + 128 * operandCount h

/-- The command whose bits are the low `nbits` of `w`, zero above them: the header is bits 31:0, operand block `k` the 128 bits
from `32 + 128 k` on. DESIGN CHOICE, safe (log entry 11): the spec fixes no framing below a header and a list of blocks (R57). -/
def tableCommand (nbits w : Nat) : Command :=
  let v := w % 2 ^ nbits
  let h : Header := BitVec.ofNat 32 v
  ⟨h, (List.range (operandCount h)).map fun k => BitVec.ofNat 128 (v >>> (32 + 128 * k))⟩

/-- What the decoder reads from the bits `w`, numbered as spec/opcode_table.json numbers them. -/
def decodeTableWord (nbits w : Nat) : Option Instr :=
  (decode (tableCommand nbits w).header (tableCommand nbits w).ops).toOption

end Sys2Proof
end

