-- ==== Sys2Proof/Machine/Contexts.lean ====
section
/-! DEFINITION. The key-context store as plain data (spec/10_state.md R12, R16, R21): one entry per context, `none` for an empty
context, whose round keys have no value, `some s` for a context that holds the schedule `s`. -/

namespace Sys2Proof.Machine

/-- The store. Its length is the parameter `NCTX` (R7, R12; log entry 4). -/
abbrev Contexts := List (Option Schedule)

/-- What context `c` holds; a number past the store names no context and holds nothing (R36). -/
def readContext (st : Contexts) (c : Nat) : Option Schedule := st.getD c none

/-- Context `c` replaced whole (R35); no other context changes (R15). -/
def writeContext (st : Contexts) (c : Nat) (v : Option Schedule) : Contexts := st.set c v

/-- The store after reset (R22, R180): every context empty, but context 0 holds `DEFAULT_RK` when that is given. -/
def resetContexts (nctx : Nat) (defaultRk : Option Schedule) : Contexts :=
  writeContext (List.replicate nctx none) 0 defaultRk

end Sys2Proof.Machine
end

