-- ==== Sys2Proof/Machine/State.lean ====
section
/-! DEFINITION. The state of the core (spec/10_state.md R12 to R22) as plain data, the events it takes and the responses it gives
(spec/70_reset_and_hazards.md R187; spec/30_encoding.md R56), and the state after reset. -/

namespace Sys2Proof.Machine

/-- The four causes of spec/60_exceptions.md R151, codes 1 to 4. The spec's faults are NEXT states with `HALT = 1`, not stops. -/
inductive Cause where
  /-- Code 1: the command decodes to nothing. -/
  | illegalCmd
  /-- Code 2: a context field the command uses holds a number `>= NCTX`. -/
  | badCtx
  /-- Code 3: the command needs a schedule from an empty context. -/
  | noKey
  /-- Code 4: `engine_ok = false` on an engine invocation. -/
  | engine
deriving DecidableEq, Repr

/-- What the host can do to the core (R187): issue a command, which comes with the `engine_ok` input of the engine invocation it
may make (R7), or assert reset. -/
inductive Event where
  | command (cmd : Command) (engineOk : Bool)
  | reset
deriving DecidableEq, Repr

/-- A response: the status header and 0 or 1 result block (R56). -/
structure Response where
  status : Header
  result : Option Block
deriving DecidableEq, Repr

/-- The state. `ctx` and `fault` are the spec's whole architectural state (R21); `defaultRk` and the length of `ctx` are its
parameters (R7), carried unchanged; `events`, `engineOk` and `responses` are the ports (log entries 1, 2, 3). -/
structure State where
  /-- `RK` and `VALID` of contexts `0 .. NCTX-1` (R12, R16). -/
  ctx       : List (Option Schedule)
  /-- `none` is `HALT = 0`, `CAUSE = 0`; `some k` is `HALT = 1`, `CAUSE = k` (R17). -/
  fault     : Option Cause
  /-- The parameter `DEFAULT_RK` (R7). -/
  defaultRk : Option Schedule
  /-- The host's events the core has not taken yet, in order (R187). -/
  events    : List Event
  /-- The `engine_ok` input of the command being executed (R84). -/
  engineOk  : Bool
  /-- The responses delivered so far, oldest first (R38). -/
  responses : List Response
deriving DecidableEq, Repr

/-- Reasons a step of this machine stops: there are none, so the type is empty and a step that stops with a fault cannot be
written. Every fault of the spec is a next state (R153) and the step is total (R150). Safe (log entry 6). -/
inductive Fault where
deriving DecidableEq, Repr

/-- Reasons an instruction has no meaning. -/
inductive Refusal where
  /-- Raised by `exec` for a constructor without a meaning, by its mnemonic; no arm does so in this model. Safe. -/
  | notModelled (mnemonic : String)
deriving DecidableEq, Repr

/-- The machine right after reset (R22, R180) in the reference configuration (R7), with no event pending and no response given. -/
def State.reset : State where
  ctx       := resetContexts Config.refNctx Config.refDefaultRk
  fault     := none
  defaultRk := Config.refDefaultRk
  events    := []
  engineOk  := Config.refEngineOk
  responses := []

end Sys2Proof.Machine
end

