-- ==== Sys2Proof/Machine/Flags.lean ====
section
/-! DEFINITION. The flags and the status register (spec/10_state.md R16 to R18): HALT, CAUSE and VALID as views of the state, and
STATUS as the 32 bits of R18. -/

namespace Sys2Proof.Machine

/-- `NCTX`: the number of contexts the core has (R12). -/
def State.nctx (s : State) : Nat := s.ctx.length

/-- `RK[c]` where `VALID[c] = 1` (R12, R16). -/
def State.rk (s : State) (c : Nat) : Option Schedule := readContext s.ctx c

/-- `VALID[c]` (R16). -/
def State.valid (s : State) (c : Nat) : Bool := (s.rk c).isSome

/-- `HALT` (R17). -/
def State.halted (s : State) : Bool := s.fault.isSome

/-- The cause codes of R151. -/
def Cause.code : Cause → BitVec 3
  | .illegalCmd => 1
  | .badCtx => 2
  | .noKey => 3
  | .engine => 4

/-- `CAUSE`: 0 while `HALT = 0` (R17). -/
def State.causeField (s : State) : BitVec 3 :=
  match s.fault with
  | none => 0
  | some k => k.code

/-- STATUS bits 31:16: bit `16 + c` is `VALID[c]`, 0 for `c >= NCTX` (R18). -/
def State.validField (s : State) : BitVec 16 := BitVec.ofFnLE fun c => s.valid c

/-- `STATUS` (R18): VALID in 31:16, reserved zeros in 15:4, CAUSE in 3:1, HALT in bit 0. -/
def State.status (s : State) : Header :=
  s.validField ++ (0 : BitVec 12) ++ s.causeField ++ BitVec.ofBool s.halted

end Sys2Proof.Machine
end

