-- ==== Sys2Proof/Machine/Ops.lean ====
section
/-! DEFINITION. The named operations over the state: writing a context, responding, taking a fault (the one exception of
spec/60_exceptions.md R153), reset, and taking the next event from the port. -/

namespace Sys2Proof.Machine

/-- Context `c` becomes `v`: `some s` is `RK[c] <- s; VALID[c] <- 1`, `none` is `VALID[c] <- 0` (R16). -/
def State.setRk (s : State) (c : Nat) (v : Option Schedule) : State :=
  { s with ctx := writeContext s.ctx c v }

/-- A response is delivered: its header is STATUS as it stands now, so after the command's effect (R56). -/
def State.deliver (s : State) (result : Option Block) : State :=
  { s with responses := s.responses ++ [⟨s.status, result⟩] }

/-- `respond()` of R8: no result block. On a halted core this is the fault response (R153). -/
def State.respond (s : State) : State := s.deliver none

/-- `respond(v)` of R8: the result block is `v`. -/
def State.respondWith (s : State) (v : Block) : State := s.deliver (some v)

/-- HALT and CAUSE are written, nothing else (R153). -/
def State.halt (s : State) (k : Cause) : State := { s with fault := some k }

/-- `raise Fault(k)` (R153): halt with cause `k` and give the fault response. -/
def State.raiseFault (s : State) (k : Cause) : State := (s.halt k).respond

/-- Step 1 of R150: a halted core answers with the fault response and does nothing else; a live one goes on. -/
def State.unlessHalted (s : State) (live : State) : State :=
  if s.halted then s.respond else live

/-- Reset (R180): the contexts and the fault record take the values of R22. The parameters, the responses already delivered and
the events that follow the reset stay (R181; log entry 1). -/
def State.resetCore (s : State) : State :=
  { s with ctx := resetContexts s.nctx s.defaultRk, fault := none }

/-- The core accepts a command (R38): the events after it stay pending and its `engine_ok` is the input of this step (R84). -/
def State.accept (s : State) (rest : List Event) (engineOk : Bool) : State :=
  { s with events := rest, engineOk := engineOk }

/-- A malformed command (R55, R150 steps 1 and 2): `Fault(ILLEGAL_CMD)` unless the core is already halted. -/
def State.rejectMalformed (s : State) : State := s.unlessHalted (s.raiseFault .illegalCmd)

/-- The core takes the next event from the port (R38, R187), `run` being the execution of a decoded command. With no event pending
the core is idle and holds its state (R166; log entry 1). -/
def State.takeEvent (s : State) (run : Instr → State → Host.Outcome State Fault Refusal) :
    Host.Outcome State Fault Refusal :=
  match s.events with
  | [] => .next s
  | .reset :: rest => .next { s.resetCore with events := rest }
  | .command cmd ok :: rest =>
    match decode cmd.header cmd.ops with
    | .error _ => .next (s.accept rest ok).rejectMalformed
    | .ok i => run i (s.accept rest ok)

/-- The host puts a command at the front of the pending events, with `engine_ok = true`. -/
def State.placeCommand (s : State) (cmd : Command) : State :=
  { s with events := .command cmd true :: s.events }

end Sys2Proof.Machine
end

