-- ==== Sys2Proof/Machine/Operands.lean ====
section
/-! DEFINITION. The checks on a command's context fields and on the engine (spec/60_exceptions.md R150 steps 3 to 5). Each takes
what follows when the check passes; when it fails it raises the fault that R151 names. A meaning nests them in R150's order. -/

namespace Sys2Proof.Machine

/-- Step 3 of R150: a context field `>= NCTX` raises `Fault(BAD_CTX)`. -/
def State.needContext (s : State) (c : Nat) (ok : State) : State :=
  if s.nctx ≤ c then s.raiseFault .badCtx else ok

/-- Step 4 of R150: an empty context raises `Fault(NO_KEY)`; otherwise the command goes on with the context's schedule. -/
def State.needKey (s : State) (c : Nat) (ok : Schedule → State) : State :=
  match s.rk c with
  | none => s.raiseFault .noKey
  | some rk => ok rk

/-- Step 5 of R150: `engine_ok = false` raises `Fault(ENGINE)` (R84). -/
def State.needEngine (s : State) (ok : State) : State :=
  if s.engineOk then ok else s.raiseFault .engine

end Sys2Proof.Machine
end

