-- ==== Sys2Proof/Machine/System.lean ====
section
/-! DEFINITION. The system command STAT (spec/44_system.md R140). -/

namespace Sys2Proof.Machine

/-- `STAT` (R140): the response header is STATUS; nothing else happens. A halted core answers it with the fault response, which
carries the same STATUS. -/
def execStat (s : State) : Host.Outcome State Fault Refusal :=
  .next (s.unlessHalted s.respond)

end Sys2Proof.Machine
end

