-- ==== Sys2Proof/Machine/Bytes.lean ====
section
/-! DEFINITION. The one byte-order rule (spec/20_memory.md R30): little-endian between a 128-bit value and 16 bytes. -/

namespace Sys2Proof.Machine

/-- `to_bytes(v)[i] = v[8*i+7 : 8*i]` (R30). -/
def toBytes (v : Block) : Bytes16 := .ofFn fun i => v.extractLsb' (8 * i.val) 8

/-- `from_bytes(b) = b[0] + 2^8 * b[1] + ... + 2^120 * b[15]` (R30). -/
def fromBytes (b : Bytes16) : Block :=
  BitVec.ofNat 128 (b.toList.foldr (fun x acc => x.toNat + 256 * acc) 0)

end Sys2Proof.Machine
end

