-- ==== Sys2Proof/Machine/Aes.lean ====
section
/-! DEFINITION. The AES-128 engine as a function (spec/40_aes_primitives.md R70 to R83): the four steps of a round, the forward
cipher and the key expansion. The tables are the spec's, which marks them as supplied from general knowledge (G1 to G7; log
entry 10). -/

namespace Sys2Proof.Machine

/-- `xtime` (R77): multiplication by `x` in GF(2^8) modulo x^8 + x^4 + x^3 + x + 1. -/
def xtime (a : Byte) : Byte := if a.getLsbD 7 then (a <<< 1) ^^^ 0x1b else a <<< 1

/-- `xtime^i(a)` (R77). -/
def xtimes : Nat → Byte → Byte
  | 0, a => a
  | i + 1, a => xtime (xtimes i a)

/-- `a * b` in GF(2^8): the XOR over the set bits `i` of `b` of `xtime^i(a)` (R77). -/
def gmul (a b : Byte) : Byte :=
  (List.range 8).foldl (fun acc i => if b.getLsbD i then acc ^^^ xtimes i a else acc) 0

/-- The table of R74: row `R`, column `C` is the entry for byte `0xRC`. -/
def sboxRows : List (List Byte) :=
  [[0x63, 0x7c, 0x77, 0x7b, 0xf2, 0x6b, 0x6f, 0xc5, 0x30, 0x01, 0x67, 0x2b, 0xfe, 0xd7, 0xab, 0x76],
      [0xca, 0x82, 0xc9, 0x7d, 0xfa, 0x59, 0x47, 0xf0, 0xad, 0xd4, 0xa2, 0xaf, 0x9c, 0xa4, 0x72, 0xc0],
      [0xb7, 0xfd, 0x93, 0x26, 0x36, 0x3f, 0xf7, 0xcc, 0x34, 0xa5, 0xe5, 0xf1, 0x71, 0xd8, 0x31, 0x15],
      [0x04, 0xc7, 0x23, 0xc3, 0x18, 0x96, 0x05, 0x9a, 0x07, 0x12, 0x80, 0xe2, 0xeb, 0x27, 0xb2, 0x75]]
  ++ [[0x09, 0x83, 0x2c, 0x1a, 0x1b, 0x6e, 0x5a, 0xa0, 0x52, 0x3b, 0xd6, 0xb3, 0x29, 0xe3, 0x2f, 0x84],
      [0x53, 0xd1, 0x00, 0xed, 0x20, 0xfc, 0xb1, 0x5b, 0x6a, 0xcb, 0xbe, 0x39, 0x4a, 0x4c, 0x58, 0xcf],
      [0xd0, 0xef, 0xaa, 0xfb, 0x43, 0x4d, 0x33, 0x85, 0x45, 0xf9, 0x02, 0x7f, 0x50, 0x3c, 0x9f, 0xa8],
      [0x51, 0xa3, 0x40, 0x8f, 0x92, 0x9d, 0x38, 0xf5, 0xbc, 0xb6, 0xda, 0x21, 0x10, 0xff, 0xf3, 0xd2]]
  ++ [[0xcd, 0x0c, 0x13, 0xec, 0x5f, 0x97, 0x44, 0x17, 0xc4, 0xa7, 0x7e, 0x3d, 0x64, 0x5d, 0x19, 0x73],
      [0x60, 0x81, 0x4f, 0xdc, 0x22, 0x2a, 0x90, 0x88, 0x46, 0xee, 0xb8, 0x14, 0xde, 0x5e, 0x0b, 0xdb],
      [0xe0, 0x32, 0x3a, 0x0a, 0x49, 0x06, 0x24, 0x5c, 0xc2, 0xd3, 0xac, 0x62, 0x91, 0x95, 0xe4, 0x79],
      [0xe7, 0xc8, 0x37, 0x6d, 0x8d, 0xd5, 0x4e, 0xa9, 0x6c, 0x56, 0xf4, 0xea, 0x65, 0x7a, 0xae, 0x08]]
  ++ [[0xba, 0x78, 0x25, 0x2e, 0x1c, 0xa6, 0xb4, 0xc6, 0xe8, 0xdd, 0x74, 0x1f, 0x4b, 0xbd, 0x8b, 0x8a],
      [0x70, 0x3e, 0xb5, 0x66, 0x48, 0x03, 0xf6, 0x0e, 0x61, 0x35, 0x57, 0xb9, 0x86, 0xc1, 0x1d, 0x9e],
      [0xe1, 0xf8, 0x98, 0x11, 0x69, 0xd9, 0x8e, 0x94, 0x9b, 0x1e, 0x87, 0xe9, 0xce, 0x55, 0x28, 0xdf],
      [0x8c, 0xa1, 0x89, 0x0d, 0xbf, 0xe6, 0x42, 0x68, 0x41, 0x99, 0x2d, 0x0f, 0xb0, 0x54, 0xbb, 0x16]]

/-- `SBOX` (R74). -/
def sbox (a : Byte) : Byte := (sboxRows.getD (a.toNat / 16) []).getD (a.toNat % 16) 0

/-- SubBytes (R75). -/
def subBytes (s : Bytes16) : Bytes16 := .ofFn fun i => sbox s[i]

/-- ShiftRows (R76): `s[r + 4*((c + r) mod 4)]` at row `r = i mod 4`, column `c = i div 4` (R72). -/
def shiftRows (s : Bytes16) : Bytes16 :=
  .ofFn fun i => s[i.val % 4 + 4 * ((i.val / 4 + i.val % 4) % 4)]'(by omega)

/-- `2 * a` (R77). -/
def mul2 (a : Byte) : Byte := xtime a

/-- `3 * a` (R77). -/
def mul3 (a : Byte) : Byte := xtime a ^^^ a

/-- One column of MixColumns (R78). -/
def mixColumn (a0 a1 a2 a3 : Byte) : Word4 :=
  #v[mul2 a0 ^^^ mul3 a1 ^^^ a2 ^^^ a3,
     a0 ^^^ mul2 a1 ^^^ mul3 a2 ^^^ a3,
     a0 ^^^ a1 ^^^ mul2 a2 ^^^ mul3 a3,
     mul3 a0 ^^^ a1 ^^^ a2 ^^^ mul2 a3]

/-- MixColumns (R78): byte `i` is entry `i mod 4` of the new column `i div 4`. -/
def mixColumns (s : Bytes16) : Bytes16 :=
  .ofFn fun i =>
    (mixColumn (s[4 * (i.val / 4)]'(by omega)) (s[4 * (i.val / 4) + 1]'(by omega))
      (s[4 * (i.val / 4) + 2]'(by omega)) (s[4 * (i.val / 4) + 3]'(by omega)))[i.val % 4]'(by omega)

/-- AddRoundKey (R79). -/
def addRoundKey (s k : Bytes16) : Bytes16 := .ofFn fun i => s[i] ^^^ k[i]

/-- `w_r`, the 16 bytes `w[16*r .. 16*r+15]` (R80). -/
def roundKey (w : Bytes176) (r : Fin 11) : Bytes16 :=
  .ofFn fun j => w[16 * r.val + j.val]'(by omega)

/-- One of the rounds 1 to 9 (R80). -/
def cipherRound (k s : Bytes16) : Bytes16 := addRoundKey (mixColumns (shiftRows (subBytes s))) k

/-- The last round, without MixColumns (R80). -/
def finalRound (k s : Bytes16) : Bytes16 := addRoundKey (shiftRows (subBytes s)) k

/-- `Cipher` (R80): AddRoundKey with `w_0`, rounds 1 to 9, the last round with `w_10`. -/
def cipher (w : Bytes176) (input : Bytes16) : Bytes16 :=
  finalRound (roundKey w 10)
    ([1, 2, 3, 4, 5, 6, 7, 8, 9].foldl (fun s r => cipherRound (roundKey w r) s)
      (addRoundKey input (roundKey w 0)))

/-- `RCON[1..10]` (R81). -/
def rcon (i : Nat) : Byte :=
  [0x01, 0x02, 0x04, 0x08, 0x10, 0x20, 0x40, 0x80, 0x1b, 0x36].getD (i - 1) 0

/-- RotWord (R73): the four bytes rotated left by one. -/
def rotWord (t : Word4) : Word4 := #v[t[1], t[2], t[3], t[0]]

/-- SubWord (R73). -/
def subWord (t : Word4) : Word4 := #v[sbox t[0], sbox t[1], sbox t[2], sbox t[3]]

/-- `RCON` goes into the first byte only (R73). -/
def addRcon (i : Nat) (t : Word4) : Word4 := #v[t[0] ^^^ rcon i, t[1], t[2], t[3]]

/-- Bytewise XOR of two words. -/
def xorWord (a b : Word4) : Word4 := .ofFn fun j => a[j] ^^^ b[j]

/-- Word `i` of the words built so far; the key expansion asks only for words that are there. -/
def wordAt (ws : List Word4) (i : Nat) : Word4 := ws.getD i (.replicate 4 0)

/-- The word `t` that word `i` is made with (R73): the previous word, transformed when `i mod 4 = 0`. -/
def expandTemp (i : Nat) (prev : Word4) : Word4 :=
  if i % 4 = 0 then addRcon (i / 4) (subWord (rotWord prev)) else prev

/-- Words 0 .. 3 are the key (R73). -/
def firstWords (k : Bytes16) : List Word4 :=
  (List.finRange 4).map fun i => .ofFn fun j : Fin 4 => k[4 * i.val + j.val]'(by omega)

/-- Words `0 .. 3 + n` of the expansion (R73): word `i` is word `i - 4` XOR `t`. -/
def keyWords (k : Bytes16) : Nat → List Word4
  | 0 => firstWords k
  | n + 1 =>
    let ws := keyWords k n
    ws ++ [xorWord (wordAt ws n) (expandTemp (n + 4) (wordAt ws (n + 3)))]

/-- `KeyExpand` (R73): byte `b` of the buffer is byte `b mod 4` of word `b div 4`. -/
def keyExpand (k : Bytes16) : Bytes176 :=
  let ws := keyWords k 40
  .ofFn fun b => (wordAt ws (b.val / 4))[b.val % 4]'(by omega)

end Sys2Proof.Machine
end

