-- ==== Sys2Proof/Machine/BlockCipher.lean ====
section
/-! DEFINITION. BlockCipher (spec/41_blockcipher.md R100 to R107): the value-typed functions over a schedule and the commands
KEYLOAD, KEYCOPY, KEYDROP and ENC. -/

namespace Sys2Proof.Machine

/-- The 176-byte buffer of a schedule: byte `16*r + j` is byte `j` of round key `r` (R13, R101). -/
def scheduleBytes (s : Schedule) : Bytes176 :=
  .ofFn fun i => (toBytes (s[i.val / 16]'(by omega)))[i.val % 16]'(by omega)

/-- `encrypt_value(s, x)` (R101). -/
def encryptValue (s : Schedule) (x : Block) : Block := fromBytes (cipher (scheduleBytes s) (toBytes x))

/-- `ScheduleOf(key)` (R102). -/
def scheduleOf (key : Block) : Schedule :=
  let w := keyExpand (toBytes key)
  .ofFn fun r => fromBytes (roundKey w r)

/-- `KEYLOAD c, key` (R103). -/
def execKeyload (c : Nat) (key : Block) (s : State) : Host.Outcome State Fault Refusal :=
  .next (s.unlessHalted
    (s.needContext c
      (s.needEngine
        (s.setRk c (some (scheduleOf key))).respond)))

/-- `KEYCOPY d, src` (R104): BAD_CTX if either field is out of range, before `VALID[src]` is looked at (R155). -/
def execKeycopy (d src : Nat) (s : State) : Host.Outcome State Fault Refusal :=
  .next (s.unlessHalted
    (s.needContext d
      (s.needContext src
        (s.needKey src fun rk =>
          (s.setRk d (some rk)).respond))))

/-- `KEYDROP c` (R105): the context's round keys lose their value (R16). -/
def execKeydrop (c : Nat) (s : State) : Host.Outcome State Fault Refusal :=
  .next (s.unlessHalted
    (s.needContext c
      (s.needKey c fun _ =>
        (s.setRk c none).respond)))

/-- `ENC c, x` (R106). -/
def execEnc (c : Nat) (x : Block) (s : State) : Host.Outcome State Fault Refusal :=
  .next (s.unlessHalted
    (s.needContext c
      (s.needKey c fun rk =>
        s.needEngine
          (s.respondWith (encryptValue rk x)))))

end Sys2Proof.Machine
end

