-- ==== Sys2Proof/Machine/FieldDouble.lean ====
section
/-! DEFINITION. FieldDouble and the command DBL (spec/42_fielddouble.md R120 to R122). -/

namespace Sys2Proof.Machine

/-- `double` (R120): shift left by one; when bit 127 was set, XOR `0x87`. -/
def double (v : Block) : Block := if v.getLsbD 127 then (v <<< 1) ^^^ 0x87 else v <<< 1

/-- `halve` (R122), the inverse of `double`; no command computes it. -/
def halve (w : Block) : Block :=
  if w.getLsbD 0 then ((w ^^^ 0x87) >>> 1) ||| (1 <<< 127) else w >>> 1

/-- `DBL x` (R121): no context, no engine; the result is `double(x)`. -/
def execDbl (x : Block) (s : State) : Host.Outcome State Fault Refusal :=
  .next (s.unlessHalted (s.respondWith (double x)))

end Sys2Proof.Machine
end

