-- ==== Sys2Proof/Machine/TweakHash.lean ====
section
/-! DEFINITION. TweakHash (spec/43_tweakhash.md R130 to R135): the functions `hash` and `hash2` over a schedule and the commands
HASH and HASH2. -/

namespace Sys2Proof.Machine

/-- `hash(s, tweak, x)` (R130). -/
def tweakHash (s : Schedule) (tweak x : Block) : Block :=
  let y := double x ^^^ tweak
  encryptValue s x ^^^ y

/-- `hash2(s, tweak, x, y)` (R131). -/
def tweakHash2 (s : Schedule) (tweak x y : Block) : Block :=
  let z := x ^^^ double y
  tweakHash s tweak z

/-- `HASH c, tweak, x` (R132). -/
def execHash (c : Nat) (tweak x : Block) (s : State) : Host.Outcome State Fault Refusal :=
  .next (s.unlessHalted
    (s.needContext c
      (s.needKey c fun rk =>
        s.needEngine
          (s.respondWith (tweakHash rk tweak x)))))

/-- `HASH2 c, tweak, x, y` (R133). -/
def execHash2 (c : Nat) (tweak x y : Block) (s : State) : Host.Outcome State Fault Refusal :=
  .next (s.unlessHalted
    (s.needContext c
      (s.needKey c fun rk =>
        s.needEngine
          (s.respondWith (tweakHash2 rk tweak x y)))))

end Sys2Proof.Machine
end

