-- ==== Sys2Proof/Machine/Dispatch.lean ====
section
/-! DEFINITION. One arm per command: the execution of a decoded command (spec/60_exceptions.md R150). -/

namespace Sys2Proof.Machine

def exec (i : Instr) (s : State) : Host.Outcome State Fault Refusal :=
  match i with
  | .keyload c key => Sys2Proof.Machine.execKeyload c key s
  | .keycopy d src => Sys2Proof.Machine.execKeycopy d src s
  | .keydrop c => Sys2Proof.Machine.execKeydrop c s
  | .enc c x => Sys2Proof.Machine.execEnc c x s
  | .dbl x => Sys2Proof.Machine.execDbl x s
  | .hash c tweak x => Sys2Proof.Machine.execHash c tweak x s
  | .hash2 c tweak x y => Sys2Proof.Machine.execHash2 c tweak x y s
  | .stat => Sys2Proof.Machine.execStat s

end Sys2Proof.Machine
end

