-- ==== Sys2Proof/Machine/Step.lean ====
section
/-! DEFINITION. One step of the core: it takes the next event the host has issued (spec/70_reset_and_hazards.md R187) and, if that
is a command, executes it by spec/60_exceptions.md R150. -/

namespace Sys2Proof.Machine

/-- One step: the next event, taken whole (R38, R181). -/
def step (s : State) : Host.Outcome State Fault Refusal := s.takeEvent exec

/-- `s` with the command whose bits are `w` as the next event the core takes, `engine_ok = true` (log entry 12). -/
def State.withFetchWord (s : State) (nbits w : Nat) : State := s.placeCommand (tableCommand nbits w)

end Sys2Proof.Machine
end

