-- ==== Sys2Proof/Machine/Assembler.lean ====
section
/-! DEFINITION. The assembler's way of writing commands and responses (spec/30_encoding.md R58) and its two byte-typed
pseudo-instructions (R59, R100). Nothing here is executed by the core. -/

namespace Sys2Proof.Machine

/-- `KEYLOADB c, B` expands to `KEYLOAD c, from_bytes(B)` (R59). -/
def keyloadB (c : Nat) (b : Bytes16) : Instr := .keyload c (fromBytes b)

/-- `ENCB c, B` expands to `ENC c, from_bytes(B)` (R59). -/
def encB (c : Nat) (b : Bytes16) : Instr := .enc c (fromBytes b)

/-- The result of `ENCB` is reported as the byte string `to_bytes(v)` (R59). -/
def encBResult (r : Response) : Option Bytes16 := r.result.map toBytes

/-- FG's `encrypt_block` on a schedule (R100): the cipher on byte sequences. -/
def encryptBlock (s : Schedule) (b : Bytes16) : Bytes16 := cipher (scheduleBytes s) b

/-- One hex digit. -/
def hexDigit (d : Nat) : Char :=
  ['0', '1', '2', '3', '4', '5', '6', '7', '8', '9', 'a', 'b', 'c', 'd', 'e', 'f'].getD d '0'

/-- The low `n` hex digits of `v`, most significant first (R8). -/
def hexChars : Nat → Nat → List Char
  | 0, _ => []
  | n + 1, v => hexChars n (v / 16) ++ [hexDigit (v % 16)]

/-- A `0x` literal of `n` digits (R8). -/
def hexLit (n v : Nat) : String := "0x" ++ String.ofList (hexChars n v)

/-- A block operand, a 32-digit literal (R58). -/
def asmBlock (v : Block) : String := hexLit 32 v.toNat

/-- A command as R58 writes it. -/
def asm : Instr → String
  | .keyload c key => "KEYLOAD " ++ toString c ++ ", " ++ asmBlock key
  | .keycopy d src => "KEYCOPY " ++ toString d ++ ", " ++ toString src
  | .keydrop c => "KEYDROP " ++ toString c
  | .enc c x => "ENC " ++ toString c ++ ", " ++ asmBlock x
  | .dbl x => "DBL " ++ asmBlock x
  | .hash c tweak x => "HASH " ++ toString c ++ ", " ++ asmBlock tweak ++ ", " ++ asmBlock x
  | .hash2 c tweak x y =>
    "HASH2 " ++ toString c ++ ", " ++ asmBlock tweak ++ ", " ++ asmBlock x ++ ", " ++ asmBlock y
  | .stat => "STAT"

/-- A response as R58 writes it: OK or FAULT by the HALT bit of its status, then the result block if there is one. -/
def asmResponse (r : Response) : String :=
  (if r.status.getLsbD 0 then "-> FAULT " else "-> OK ") ++ hexLit 8 r.status.toNat ++
    (match r.result with
      | none => ""
      | some v => ", " ++ asmBlock v)

end Sys2Proof.Machine
end

