-- ==== Sys2Proof/Safety.lean ====
section
/-! DEFINITION. The terms the claims use: what a command reads and writes (spec/20_memory.md R37), what it needs (spec/60_exceptions.md
R150), runs (spec/70_reset_and_hazards.md R187), sequences that respect the host's duties (R157), and the two invariants of the
spec. None of it is used by the machine: it is written from the spec a second time, command by command. -/

namespace Sys2Proof.Machine

/-- The context fields a command uses (R150 step 3). -/
def usedContexts : Instr → List Nat
  | .keyload c _ => [c]
  | .keycopy d src => [d, src]
  | .keydrop c => [c]
  | .enc c _ => [c]
  | .dbl _ => []
  | .hash c _ _ => [c]
  | .hash2 c _ _ _ => [c]
  | .stat => []

/-- The context a command needs to hold a schedule (R150 step 4). -/
def neededContext : Instr → Option Nat
  | .keyload _ _ => none
  | .keycopy _ src => some src
  | .keydrop c => some c
  | .enc c _ => some c
  | .dbl _ => none
  | .hash c _ _ => some c
  | .hash2 c _ _ _ => some c
  | .stat => none

/-- The commands that invoke the engine (R150 step 5). -/
def invokesEngine : Instr → Bool
  | .keyload _ _ => true
  | .keycopy _ _ => false
  | .keydrop _ => false
  | .enc _ _ => true
  | .dbl _ => false
  | .hash _ _ _ => true
  | .hash2 _ _ _ _ => true
  | .stat => false

/-- The context a command writes (R14, R37). -/
def writtenContext : Instr → Option Nat
  | .keyload c _ => some c
  | .keycopy d _ => some d
  | .keydrop c => some c
  | .enc _ _ => none
  | .dbl _ => none
  | .hash _ _ _ => none
  | .hash2 _ _ _ _ => none
  | .stat => none

/-- Whether a command reads context `c`, its VALID bit or its round keys (R37); STAT reads every VALID bit. -/
def readsContext (c : Nat) : Instr → Bool
  | .keyload _ _ => false
  | .keycopy _ src => src == c
  | .keydrop d => d == c
  | .enc d _ => d == c
  | .dbl _ => false
  | .hash d _ _ => d == c
  | .hash2 d _ _ _ => d == c
  | .stat => true

/-- ENC, DBL, HASH, HASH2 and STAT (R14, R39). -/
def readOnly (i : Instr) : Bool := (writtenContext i).isNone

/-- The cause a decoded command faults with on a live core, the first that applies in R150's order (R155). -/
def firstCause (i : Instr) (s : State) : Option Cause :=
  if (usedContexts i).any (fun c => s.nctx ≤ c) then some .badCtx
  else if (neededContext i).any (fun c => !s.valid c) then some .noKey
  else if invokesEngine i && !s.engineOk then some .engine
  else none

/-- The block a command responds with when it does not fault (R56). -/
def resultBlock (s : State) : Instr → Option Block
  | .keyload _ _ => none
  | .keycopy _ _ => none
  | .keydrop _ => none
  | .enc c x => (s.rk c).map fun rk => encryptValue rk x
  | .dbl x => some (double x)
  | .hash c tweak x => (s.rk c).map fun rk => tweakHash rk tweak x
  | .hash2 c tweak x y => (s.rk c).map fun rk => tweakHash2 rk tweak x y
  | .stat => none

/-- The decoded command with other operand blocks: the same operation on the same contexts (R152). -/
def sameButOperands (i j : Instr) : Bool :=
  i.opcode == j.opcode && usedContexts i == usedContexts j

/-- `s` with one more response, its header STATUS, and nothing else changed (R56). -/
def answered (s : State) (result : Option Block) : State :=
  { s with responses := s.responses ++ [⟨s.status, result⟩] }

/-- `s` with HALT and CAUSE written and the fault response given, nothing else changed (R153). -/
def faulted (s : State) (k : Cause) : State :=
  answered { s with fault := some k } none

/-- Commands executed one after the other (R38), each with the `engine_ok` the state holds. -/
def execAll : List Instr → State → Host.Outcome State Fault Refusal
  | [], s => .next s
  | i :: rest, s =>
    match exec i s with
    | .next t => execAll rest t
    | .fault r => .fault r
    | .refused r => .refused r

/-- A run (R187): the events applied in order from `s`. -/
def runEvents (s : State) (events : List Event) : Host.Outcome State Fault Refusal :=
  core.run events.length { s with events := events }

/-- Which contexts are loaded after a command that does not fault (R16). -/
def loadedAfter (loaded : Nat → Bool) : Instr → Nat → Bool
  | .keyload c _, d => if d = c then true else loaded d
  | .keycopy c _, d => if d = c then true else loaded d
  | .keydrop c, d => if d = c then false else loaded d
  | .enc _ _, d => loaded d
  | .dbl _, d => loaded d
  | .hash _ _ _, d => loaded d
  | .hash2 _ _ _ _, d => loaded d
  | .stat, d => loaded d

/-- A sequence of well-formed commands that uses only contexts `< NCTX`, and needs a schedule only from loaded ones (R157, R182). -/
def respectsDuties (nctx : Nat) : (Nat → Bool) → List Instr → Prop
  | _, [] => True
  | loaded, i :: rest =>
    i.wellFormed = true ∧ (∀ c ∈ usedContexts i, c < nctx) ∧ (∀ c ∈ neededContext i, loaded c = true) ∧
      respectsDuties nctx (loadedAfter loaded i) rest

/-- The parameter `NCTX` is in its range (R7). -/
def State.nctxInRange (s : State) : Prop := Config.nctxMin ≤ s.nctx ∧ s.nctx ≤ Config.nctxMax

/-- Every schedule a context holds is `KeyExpand` of some key or `DEFAULT_RK` (R21). -/
def State.schedulesDerived (s : State) : Prop :=
  ∀ c rk, s.rk c = some rk → (∃ key, rk = scheduleOf key) ∨ s.defaultRk = some rk

end Sys2Proof.Machine
end

