-- ==== Sys2Proof/Certificates/Slice0/Obligations.lean ====
section
/-! DEFINITION. The statements for the provers, from the numbered rules of spec/. A fault of the spec is a next state with `HALT = 1`
(R153), so every statement about a command concludes with the next state that `exec` or `step` answers. -/

open Sys2Proof Sys2Proof.Machine

/-! ### Encoding (spec/30_encoding.md) -/

/-- R55, R58, over all commands: decoding the encoding of a well-formed command gives it back, every operand at every value. -/
def Obligations.DecodeOfEncodeIsIdentity : Prop :=
  ∀ i : Instr, i.wellFormed = true → decode (encode i).header (encode i).ops = .ok i

/-- R55, strictness: a command that decodes is the encoding of what it decodes to, so no bit is ignored and no two commands decode
alike. -/
def Obligations.EncodeOfDecodeIsIdentity : Prop :=
  ∀ (h : Header) (ops : List Block) (i : Instr), decode h ops = .ok i → i.wellFormed = true ∧ encode i = ⟨h, ops⟩

/-- R55: what decodes to each mnemonic is what the row's match, mask and number of operand blocks say, the rows written out here. -/
def Obligations.DecodeAcceptsExactlyTheTable : Prop :=
  ∀ (h : Header) (ops : List Block),
    ((∃ c key, decode h ops = .ok (.keyload c key)) ↔ h &&& 0xFFFFFF0F = 0x00000001 ∧ ops.length = 1) ∧
    ((∃ d src, decode h ops = .ok (.keycopy d src)) ↔ h &&& 0xFFFFF00F = 0x00000002 ∧ ops.length = 0) ∧
    ((∃ c, decode h ops = .ok (.keydrop c)) ↔ h &&& 0xFFFFFF0F = 0x00000003 ∧ ops.length = 0) ∧
    ((∃ c x, decode h ops = .ok (.enc c x)) ↔ h &&& 0xFFFFFF0F = 0x00000004 ∧ ops.length = 1) ∧
    ((∃ x, decode h ops = .ok (.dbl x)) ↔ h &&& 0xFFFFFFFF = 0x00000005 ∧ ops.length = 1) ∧
    ((∃ c tweak x, decode h ops = .ok (.hash c tweak x)) ↔ h &&& 0xFFFFFF0F = 0x00000006 ∧ ops.length = 2) ∧
    ((∃ c tweak x y, decode h ops = .ok (.hash2 c tweak x y)) ↔ h &&& 0xFFFFFF0F = 0x00000007 ∧ ops.length = 3) ∧
    (decode h ops = .ok .stat ↔ h &&& 0xFFFFFFFF = 0x00000008 ∧ ops.length = 0)

/-- R54, R53: the decoded command carries `header[7:4]` and `header[11:8]` as its context numbers and the operand blocks in order. -/
def Obligations.DecodedFieldsAreTheHeaderFields : Prop :=
  ∀ (h : Header) (ops : List Block),
    (∀ c key, decode h ops = .ok (.keyload c key) → c = (h.toNat / 2 ^ 4) % 16 ∧ ops = [key]) ∧
    (∀ d src, decode h ops = .ok (.keycopy d src) →
      d = (h.toNat / 2 ^ 4) % 16 ∧ src = (h.toNat / 2 ^ 8) % 16 ∧ ops = []) ∧
    (∀ c, decode h ops = .ok (.keydrop c) → c = (h.toNat / 2 ^ 4) % 16 ∧ ops = []) ∧
    (∀ c x, decode h ops = .ok (.enc c x) → c = (h.toNat / 2 ^ 4) % 16 ∧ ops = [x]) ∧
    (∀ x, decode h ops = .ok (.dbl x) → ops = [x]) ∧
    (∀ c tweak x, decode h ops = .ok (.hash c tweak x) → c = (h.toNat / 2 ^ 4) % 16 ∧ ops = [tweak, x]) ∧
    (∀ c tweak x y, decode h ops = .ok (.hash2 c tweak x y) → c = (h.toNat / 2 ^ 4) % 16 ∧ ops = [tweak, x, y])

/-- R55, `93_implementation_defined.md` U7: every reserved header is refused, whatever the operand blocks: opcode 0 or 9 to 15, a
bit of 31:12, SRC outside KEYCOPY, CTX in DBL or STAT. -/
def Obligations.ReservedHeadersDecodeToNothing : Prop :=
  ∀ (h : Header) (ops : List Block),
    (h.extractLsb' 0 4 = 0 ∨ 9 ≤ (h.extractLsb' 0 4).toNat ∨ h.extractLsb' 12 20 ≠ 0 ∨
      (h.extractLsb' 0 4 ≠ 2 ∧ h.extractLsb' 8 4 ≠ 0) ∨
      ((h.extractLsb' 0 4 = 5 ∨ h.extractLsb' 0 4 = 8) ∧ h.extractLsb' 4 4 ≠ 0)) →
    ∀ i, decode h ops ≠ .ok i

/-- R55, R58: words written out from the spec's encodings decode to the commands they stand for. -/
def Obligations.SpecWordsDecode : Prop :=
  ∀ a b c : Block,
    decode 0x00000021 [a] = .ok (.keyload 2 a) ∧ decode 0x00000132 [] = .ok (.keycopy 3 1) ∧
    decode 0x00000013 [] = .ok (.keydrop 1) ∧ decode 0x00000094 [a] = .ok (.enc 9 a) ∧
    decode 0x00000005 [a] = .ok (.dbl a) ∧ decode 0x00000006 [a, b] = .ok (.hash 0 a b) ∧
    decode 0x00000007 [a, b, c] = .ok (.hash2 0 a b c) ∧ decode 0x00000008 [] = .ok .stat

/-- R57: for every header, whether it decodes or not, the command's length is 32 + 128 * N bits, N given by `header[3:0]` alone (the
N column of R55 written out; 0 for an OPCODE with no row); and a command that decodes has that many operand blocks. -/
def Obligations.LengthIsReadFromTheOpcode : Prop :=
  (∀ h : Header,
    commandBits h = 32 + 128 *
      (match h.toNat % 16 with
        | 1 => 1
        | 4 => 1
        | 5 => 1
        | 6 => 2
        | 7 => 3
        | _ => 0)) ∧
  (∀ (h : Header) (ops : List Block) (i : Instr), decode h ops = .ok i → commandBits h = 32 + 128 * ops.length)

/-! ### The step (spec/60_exceptions.md R150, spec/70_reset_and_hazards.md) -/

/-- R38, R150: when the next event is a command that decodes to `i`, the step is `exec i` at the state in which the command has
been accepted: the later events still pending, its `engine_ok` the input. -/
def Obligations.StepRunsTheDecodedCommand : Prop :=
  ∀ (s : State) (cmd : Command) (ok : Bool) (rest : List Event) (i : Instr),
    s.events = .command cmd ok :: rest → decode cmd.header cmd.ops = .ok i →
    step s = exec i { s with events := rest, engineOk := ok }

/-- R55, R150 step 2: a command that decodes to nothing halts a live core with ILLEGAL_CMD, and nothing else is written. -/
def Obligations.MalformedCommandRaisesIllegalCmd : Prop :=
  ∀ (s : State) (cmd : Command) (ok : Bool) (rest : List Event),
    s.events = .command cmd ok :: rest → s.fault = none → (∀ i, decode cmd.header cmd.ops ≠ .ok i) →
    step s = .next (faulted { s with events := rest, engineOk := ok } .illegalCmd)

/-- R166 and log entry 1 (the model's reading): with no event pending the core holds its state. -/
def Obligations.IdleCoreHoldsItsState : Prop :=
  ∀ s : State, s.events = [] → step s = .next s

/-- R22, as reset is defined by R180: after a reset event HALT and CAUSE are 0, every context is empty but context 0, which holds
DEFAULT_RK when that is given, and STATUS is 0 or 0x00010000 (a row R22 marks as derived from R18). The parameters and the
responses already delivered stay, and no response is added (R181). Three clauses are the model's choice: that the later events stay
pending (`t.events = rest`, log entry 1), that the responses are a field which the reset leaves (`t.responses`, log entry 2) and
that the reset leaves the field `engineOk` (log entry 3); that NCTX and DEFAULT_RK are data of the
state at all is log entries 4 and 5. -/
def Obligations.ResetEventLeavesTheResetState : Prop :=
  ∀ (s : State) (rest : List Event), s.events = .reset :: rest → 1 ≤ s.nctx →
    ∃ t, step s = .next t ∧ t.halted = false ∧ t.causeField = 0 ∧ t.nctx = s.nctx ∧
      (∀ c, c < s.nctx → t.rk c = if c = 0 then s.defaultRk else none) ∧
      t.status = (if s.defaultRk = none then 0x00000000 else 0x00010000) ∧
      t.defaultRk = s.defaultRk ∧ t.engineOk = s.engineOk ∧ t.events = rest ∧ t.responses = s.responses

/-- R22 in the reference configuration of R7: the state the model starts from. The empty port fields and `engineOk` are the model's
choice (log entries 1, 2, 3). -/
def Obligations.ResetStateOfTheReferenceConfiguration : Prop :=
  State.reset.nctx = 4 ∧ State.reset.fault = none ∧ (∀ c, State.reset.rk c = none) ∧ State.reset.defaultRk = none ∧
    State.reset.status = 0x00000000 ∧ State.reset.events = [] ∧ State.reset.responses = [] ∧ State.reset.engineOk = true

/-- R150, R185: the step is total. No step of the core stops: every event has a next state. -/
def Obligations.EveryStepHasANextState : Prop :=
  (∀ s : State, ∃ t, step s = .next t) ∧ (∀ (i : Instr) (s : State), ∃ t, exec i s = .next t)

/-- R56: every command, well-formed or not, gets exactly one response; its header is STATUS after the effect; a result block follows
exactly when the header has HALT = 0 and the command decoded to ENC, DBL, HASH or HASH2, and it holds that command's value. -/
def Obligations.OneResponsePerCommand : Prop :=
  ∀ (s : State) (cmd : Command) (ok : Bool) (rest : List Event), s.events = .command cmd ok :: rest →
    ∃ t r, step s = .next t ∧ t.events = rest ∧ t.responses = s.responses ++ [r] ∧ r.status = t.status ∧
      (r.result.isSome = true ↔
        t.fault = none ∧ ∃ i, decode cmd.header cmd.ops = .ok i ∧
          (i.opcode = .enc ∨ i.opcode = .dbl ∨ i.opcode = .hash ∨ i.opcode = .hash2)) ∧
      (∀ i, decode cmd.header cmd.ops = .ok i → t.fault = none → r.result = resultBlock s i)

/-! ### The commands. Each statement gives the command's whole next state on a live core, so its frame too -/

/-- R103: KEYLOAD on a live core, every branch of its pseudocode; the last clause is its completion. -/
def Obligations.KeyloadConstructsAContext : Prop :=
  ∀ (s : State) (c : Nat) (key : Block), s.fault = none →
    (s.nctx ≤ c → exec (.keyload c key) s = .next (faulted s .badCtx)) ∧
    (c < s.nctx → s.engineOk = false → exec (.keyload c key) s = .next (faulted s .engine)) ∧
    (c < s.nctx → s.engineOk = true →
      exec (.keyload c key) s = .next (answered { s with ctx := s.ctx.set c (some (scheduleOf key)) } none))

/-- R104: KEYCOPY on a live core, every branch of its pseudocode; the last clause is its completion. `engine_ok` is not consulted. -/
def Obligations.KeycopyDuplicatesAContext : Prop :=
  ∀ (s : State) (d src : Nat), s.fault = none →
    (s.nctx ≤ d ∨ s.nctx ≤ src → exec (.keycopy d src) s = .next (faulted s .badCtx)) ∧
    (d < s.nctx → src < s.nctx → s.valid src = false → exec (.keycopy d src) s = .next (faulted s .noKey)) ∧
    (∀ rk, d < s.nctx → s.rk src = some rk →
      exec (.keycopy d src) s = .next (answered { s with ctx := s.ctx.set d (some rk) } none))

/-- R105: KEYDROP on a live core, every branch of its pseudocode; the last clause is its completion. -/
def Obligations.KeydropEmptiesAContext : Prop :=
  ∀ (s : State) (c : Nat), s.fault = none →
    (s.nctx ≤ c → exec (.keydrop c) s = .next (faulted s .badCtx)) ∧
    (c < s.nctx → s.valid c = false → exec (.keydrop c) s = .next (faulted s .noKey)) ∧
    (s.valid c = true → exec (.keydrop c) s = .next (answered { s with ctx := s.ctx.set c none } none))

/-- R106: ENC on a live core, every branch of its pseudocode; the last clause is its completion and its result. -/
def Obligations.EncReturnsTheCiphertext : Prop :=
  ∀ (s : State) (c : Nat) (x : Block), s.fault = none →
    (s.nctx ≤ c → exec (.enc c x) s = .next (faulted s .badCtx)) ∧
    (c < s.nctx → s.valid c = false → exec (.enc c x) s = .next (faulted s .noKey)) ∧
    (s.valid c = true → s.engineOk = false → exec (.enc c x) s = .next (faulted s .engine)) ∧
    (∀ rk, s.rk c = some rk → s.engineOk = true →
      exec (.enc c x) s = .next (answered s (some (encryptValue rk x))))

/-- R121: DBL on a live core, whatever the contexts and `engine_ok`. -/
def Obligations.DblReturnsTheDouble : Prop :=
  ∀ (s : State) (x : Block), s.fault = none →
    exec (.dbl x) s = .next (answered s (some (if x.getLsbD 127 then (x <<< 1) ^^^ 0x87 else x <<< 1)))

/-- R132, R130: HASH on a live core, every branch of its pseudocode; the last clause is its completion and its result. -/
def Obligations.HashReturnsTheTweakHash : Prop :=
  ∀ (s : State) (c : Nat) (tweak x : Block), s.fault = none →
    (s.nctx ≤ c → exec (.hash c tweak x) s = .next (faulted s .badCtx)) ∧
    (c < s.nctx → s.valid c = false → exec (.hash c tweak x) s = .next (faulted s .noKey)) ∧
    (s.valid c = true → s.engineOk = false → exec (.hash c tweak x) s = .next (faulted s .engine)) ∧
    (∀ rk, s.rk c = some rk → s.engineOk = true →
      exec (.hash c tweak x) s = .next (answered s (some (encryptValue rk x ^^^ double x ^^^ tweak))))

/-- R133, R131: HASH2 on a live core, every branch of its pseudocode; the last clause is its completion and its result. -/
def Obligations.Hash2ReturnsTheTweakHash : Prop :=
  ∀ (s : State) (c : Nat) (tweak x y : Block), s.fault = none →
    (s.nctx ≤ c → exec (.hash2 c tweak x y) s = .next (faulted s .badCtx)) ∧
    (c < s.nctx → s.valid c = false → exec (.hash2 c tweak x y) s = .next (faulted s .noKey)) ∧
    (s.valid c = true → s.engineOk = false → exec (.hash2 c tweak x y) s = .next (faulted s .engine)) ∧
    (∀ rk, s.rk c = some rk → s.engineOk = true →
      exec (.hash2 c tweak x y) s =
        .next (answered s
          (some (encryptValue rk (x ^^^ double y) ^^^ double (x ^^^ double y) ^^^ tweak))))

/-- R140: STAT always returns the current STATUS, halted or not, with no other effect. -/
def Obligations.StatReportsStatus : Prop :=
  ∀ s : State, exec .stat s = .next (answered s none)

/-! ### Faults (spec/60_exceptions.md) -/

/-- R153: raising a fault writes HALT and CAUSE and gives the fault response; from then on every command, whatever it is, is
answered with the same STATUS, executes nothing and leaves the cause. -/
def Obligations.HaltedCoreIsFrozen : Prop :=
  (∀ (s : State) (k : Cause), s.fault = none →
    s.raiseFault k =
      { s with fault := some k, responses := s.responses ++ [⟨{ s with fault := some k : State }.status, none⟩] }) ∧
  (∀ (s : State) (k : Cause) (cmd : Command) (ok : Bool) (rest : List Event),
    s.fault = some k → s.events = .command cmd ok :: rest →
    step s =
      .next { s with events := rest, engineOk := ok, responses := s.responses ++ [⟨s.status, none⟩] })

/-- R155 (and R150, whose order it is): a live core reports for a decoded command the first cause that applies, BAD_CTX before
NO_KEY before ENGINE, and none where none applies; a malformed command reports ILLEGAL_CMD whatever its context numbers; a halted
core reports no new cause. -/
def Obligations.FirstApplicableCauseIsReported : Prop :=
  (∀ (i : Instr) (s t : State), s.fault = none → exec i s = .next t → t.fault = firstCause i s) ∧
  (∀ (s t : State) (cmd : Command) (ok : Bool) (rest : List Event),
    s.fault = none → s.events = .command cmd ok :: rest → (∀ i, decode cmd.header cmd.ops ≠ .ok i) →
    step s = .next t → t.fault = some .illegalCmd) ∧
  (∀ (s t : State) (k : Cause) (cmd : Command) (ok : Bool) (rest : List Event),
    s.fault = some k → s.events = .command cmd ok :: rest → step s = .next t → t.fault = some k)

/-- R154 (a derived rule): a command that faults writes no context and returns no result block. -/
def Obligations.FaultsArePrecise : Prop :=
  ∀ (s t : State) (cmd : Command) (ok : Bool) (rest : List Event) (k : Cause),
    s.events = .command cmd ok :: rest → step s = .next t → t.fault = some k →
    t.ctx = s.ctx ∧ t.responses = s.responses ++ [⟨t.status, none⟩]

/-- R152: a fault writes its cause and nothing else; DBL and STAT raise none once decoded, KEYLOAD never NO_KEY, KEYCOPY and
KEYDROP never ENGINE; and no fault depends on the value of an operand block. -/
def Obligations.FaultsRecordOnlyTheirCause : Prop :=
  (∀ (i : Instr) (s t : State) (k : Cause), s.fault = none → exec i s = .next t → t.fault = some k →
    t = faulted s k ∧ i.opcode ≠ .dbl ∧ i.opcode ≠ .stat ∧ (i.opcode = .keyload → k ≠ .noKey) ∧
      (i.opcode = .keycopy ∨ i.opcode = .keydrop → k ≠ .engine)) ∧
  (∀ (i j : Instr) (s t u : State), s.fault = none → sameButOperands i j = true →
    exec i s = .next t → exec j s = .next u → t.fault = u.fault)

/-- R156, and the first cause kept (R17): HALT and CAUSE of a halted core change only by a reset event, which empties every context
but the one `DEFAULT_RK` is loaded into. -/
def Obligations.OnlyResetLeavesTheHaltedState : Prop :=
  ∀ (s t : State), s.fault ≠ none → step s = .next t → t.fault ≠ s.fault →
    ∃ rest, s.events = .reset :: rest ∧ t.fault = none ∧ ∀ c, t.rk c = none ∨ (c = 0 ∧ t.rk c = s.defaultRk)

/-! ### State (spec/10_state.md) -/

/-- R18: the bits of STATUS, field by field: HALT, CAUSE by the codes of R151, reserved zeros, VALID, zeros for `c >= NCTX`. -/
def Obligations.StatusLayout : Prop :=
  ∀ s : State,
    (s.status.getLsbD 0 = true ↔ s.fault ≠ none) ∧
    s.status.extractLsb' 1 3 =
      (match s.fault with
        | none => 0
        | some .illegalCmd => 1
        | some .badCtx => 2
        | some .noKey => 3
        | some .engine => 4) ∧
    s.status.extractLsb' 4 12 = 0 ∧
    (∀ c, c < 16 → s.status.getLsbD (16 + c) = s.valid c) ∧
    (∀ c, s.nctx ≤ c → s.status.getLsbD (16 + c) = false)

/-- R14: a context changes only by KEYLOAD, KEYCOPY or KEYDROP naming it as CTX, or by reset; ENC, DBL, HASH, HASH2 and STAT change
nothing but the list of responses when they complete without fault. -/
def Obligations.OnlyKeyCommandsAndResetWriteContexts : Prop :=
  (∀ (s t : State) (c : Nat), step s = .next t → t.rk c ≠ s.rk c →
    (∃ rest, s.events = .reset :: rest) ∨
    (∃ cmd ok rest i, s.events = .command cmd ok :: rest ∧ decode cmd.header cmd.ops = .ok i ∧
      ((∃ key, i = .keyload c key) ∨ (∃ src, i = .keycopy c src) ∨ i = .keydrop c))) ∧
  (∀ (i : Instr) (s t : State),
    i.opcode = .enc ∨ i.opcode = .dbl ∨ i.opcode = .hash ∨ i.opcode = .hash2 ∨ i.opcode = .stat →
    exec i s = .next t → t.fault = none → t = { s with responses := t.responses })

/-- R15: a command that writes context `c` changes no other context; after `KEYCOPY d, s` the two hold equal contents, and a later
KEYLOAD, KEYCOPY or KEYDROP on one leaves the other. -/
def Obligations.ContextsNeverAlias : Prop :=
  (∀ (i : Instr) (s t : State) (d : Nat), exec i s = .next t → writtenContext i ≠ some d → t.rk d = s.rk d) ∧
  (∀ (d src : Nat) (s t : State), s.fault = none → exec (.keycopy d src) s = .next t → t.fault = none →
    t.rk d = s.rk src ∧ t.rk src = s.rk src ∧
    ∀ (i : Instr) (u : State), d ≠ src → exec i t = .next u →
      (writtenContext i = some d → u.rk src = t.rk src) ∧ (writtenContext i = some src → u.rk d = t.rk d))

/-- R16: what VALID says after each command that writes it and after reset, and that a command which needs an empty context's round
keys faults NO_KEY instead. -/
def Obligations.ValidFollowsTheKeyCommands : Prop :=
  (∀ (s t : State) (c : Nat) (key : Block), exec (.keyload c key) s = .next t → t.fault = none → t.valid c = true) ∧
  (∀ (s t : State) (d src : Nat), exec (.keycopy d src) s = .next t → t.fault = none → t.valid d = true) ∧
  (∀ (s t : State) (c : Nat), exec (.keydrop c) s = .next t → t.fault = none → t.valid c = false) ∧
  (∀ (s t : State) (rest : List Event) (c : Nat), s.events = .reset :: rest → step s = .next t → t.valid c = true →
    c = 0 ∧ s.defaultRk ≠ none) ∧
  (∀ (i : Instr) (s t : State) (c : Nat), s.fault = none → (∀ d ∈ usedContexts i, d < s.nctx) →
    neededContext i = some c → s.valid c = false → exec i s = .next t → t = faulted s .noKey)

/-- R20: nothing a command leaves but the contexts and the fault record reaches a later command: two states that agree on those, the
parameters and `engine_ok` give the same contexts, the same fault record and the same new response, whatever responses were
given before and whatever events are pending. -/
def Obligations.EarlierResultsReachNoLaterCommand : Prop :=
  ∀ (i : Instr) (s u t v : State), s.ctx = u.ctx → s.fault = u.fault → s.engineOk = u.engineOk →
    exec i s = .next t → exec i u = .next v →
    t.ctx = v.ctx ∧ t.fault = v.fault ∧
      ∃ r, t.responses = s.responses ++ [r] ∧ v.responses = u.responses ++ [r]

/-- R37 (a derived rule): a command's result block, its fault and what it leaves in a context do not depend on contexts it neither
reads nor writes. -/
def Obligations.CommandsDependOnlyOnTheirContexts : Prop :=
  ∀ (i : Instr) (s u t v : State), s.fault = none → u.fault = none → s.nctx = u.nctx → s.engineOk = u.engineOk →
    (∀ c, readsContext c i = true → s.rk c = u.rk c) → exec i s = .next t → exec i u = .next v →
    t.fault = v.fault ∧
      (t.responses.getLast?.map fun r => r.result) = (v.responses.getLast?.map fun r => r.result) ∧
      (t.fault = none → ∀ c, writtenContext i = some c → t.rk c = v.rk c)

/-- R7: the parameters are fixed. Every step keeps NCTX and DEFAULT_RK, so NCTX stays in its range. -/
def Obligations.StepsKeepTheParameters : Prop :=
  ∀ s t : State, step s = .next t → t.nctx = s.nctx ∧ t.defaultRk = s.defaultRk ∧ (s.nctxInRange → t.nctxInRange)

/-- R21 (a derived sentence): every step keeps the invariant that each schedule held is KeyExpand of some key or DEFAULT_RK. -/
def Obligations.StepsKeepSchedulesDerived : Prop :=
  ∀ s t : State, s.schedulesDerived → step s = .next t → t.schedulesDerived

/-- R21, R22: the invariant of `StepsKeepSchedulesDerived`, and the range of NCTX (R7), hold at reset. -/
def Obligations.ResetMeetsTheInvariants : Prop :=
  State.reset.schedulesDerived ∧ State.reset.nctxInRange

/-! ### Ordering and runs (spec/20_memory.md, spec/60_exceptions.md R157) -/

/-- R157 (a derived sentence), with R38: with `engine_ok` true, a sequence of well-formed commands that uses only contexts `< NCTX`,
after loading them, never faults, and every command of it is answered. -/
def Obligations.DutifulSequencesNeverFault : Prop :=
  ∀ (s : State) (is : List Instr), s.fault = none → respectsDuties s.nctx s.valid is →
    ∃ t, runEvents s (is.map fun i => .command (encode i) true) = .next t ∧ t.fault = none ∧ t.events = [] ∧
      t.responses.length = s.responses.length + is.length

/-- R39, its sentence on reading commands: any number of ENC, DBL, HASH, HASH2 and STAT commands may be permuted, each with the
response it has in any order, and the state is left as it was. -/
def Obligations.ReadingCommandsPermute : Prop :=
  ∀ (s : State) (is : List Instr), s.fault = none → (∀ i ∈ is, readOnly i = true) →
    (∀ i ∈ is, firstCause i s = none) →
    ∃ answer : Instr → Response, ∀ js : List Instr, js.Perm is →
      execAll js s = .next { s with responses := s.responses ++ js.map answer }

/-- R39 (a derived rule), the header of a response being STATUS as R18 and R56 say (log entry 9): two commands that complete without
fault and of which neither writes a context the other reads or writes leave the same final state in either order (the list of
delivered responses apart, which is in command order) and each gives the same result block. Its header is the same but for
`VALID[c]` of the context `c` the other command writes; so the whole responses are the same where neither command changes a VALID
bit, as when it loads, copies into or leaves alone a context already loaded. -/
def Obligations.DisjointCommandsCommute : Prop :=
  ∀ (i j : Instr) (s t1 t2 u1 u2 : State), s.fault = none →
    (∀ c, writtenContext i = some c → readsContext c j = false ∧ writtenContext j ≠ some c) →
    (∀ c, writtenContext j = some c → readsContext c i = false) →
    exec i s = .next t1 → exec j t1 = .next t2 → exec j s = .next u1 → exec i u1 = .next u2 →
    t2.fault = none → u2.fault = none →
    ∃ ri rj ri' rj' : Response,
      t1.responses = s.responses ++ [ri] ∧ t2.responses = s.responses ++ [ri, rj] ∧
      u1.responses = s.responses ++ [rj'] ∧ u2.responses = s.responses ++ [rj', ri'] ∧
      t2 = { u2 with responses := t2.responses } ∧
      ri.result = ri'.result ∧ rj.result = rj'.result ∧
      (∀ b, ri.status.getLsbD b ≠ ri'.status.getLsbD b → ∃ c, writtenContext j = some c ∧ b = 16 + c) ∧
      (∀ b, rj.status.getLsbD b ≠ rj'.status.getLsbD b → ∃ c, writtenContext i = some c ∧ b = 16 + c) ∧
      ((∀ c, writtenContext j = some c → u1.valid c = s.valid c) → ri = ri') ∧
      ((∀ c, writtenContext i = some c → t1.valid c = s.valid c) → rj = rj')

/-- R39 word for word, its "responses" being those of R56, header and all. Expected to FAIL: the header carries every VALID bit
(R18), so `KEYLOAD 1` and `DBL` give other headers in the other order, as spec/95_test_vectors.md itself records (P4 row 2 against
P5 row 1; log entry 9). `DisjointCommandsCommute` says how far the responses agree. -/
def Obligations.DisjointCommandsGiveTheSameResponses : Prop :=
  ∀ (i j : Instr) (s t1 t2 u1 u2 : State), s.fault = none →
    (∀ c, writtenContext i = some c → readsContext c j = false ∧ writtenContext j ≠ some c) →
    (∀ c, writtenContext j = some c → readsContext c i = false) →
    exec i s = .next t1 → exec j t1 = .next t2 → exec j s = .next u1 → exec i u1 = .next u2 →
    t2.fault = none → u2.fault = none →
    t1.responses.getLast? = u2.responses.getLast? ∧ t2.responses.getLast? = u1.responses.getLast?

/-- R39, its last sentence: KEYDROP, KEYLOAD and KEYCOPY on context `c` do not commute with a command `i` that needs `c`. With `c`
loaded, `i` completes before KEYDROP and faults after it; with `c` empty, `i` faults before KEYLOAD or KEYCOPY and completes after. -/
def Obligations.KeyCommandsDoNotCommuteWithUsers : Prop :=
  ∀ (s : State) (i : Instr) (c : Nat), s.fault = none → s.engineOk = true → (∀ d ∈ usedContexts i, d < s.nctx) →
    neededContext i = some c →
    (s.valid c = true →
      ∃ t u, exec i s = .next t ∧ t.fault = none ∧ exec (.keydrop c) s = .next u ∧ exec i u = .next (faulted u .noKey)) ∧
    (s.valid c = false → exec i s = .next (faulted s .noKey) ∧
      (∀ key, ∃ t u, exec (.keyload c key) s = .next t ∧ exec i t = .next u ∧ u.fault = none) ∧
      (∀ src, s.valid src = true →
        ∃ t u, exec (.keycopy c src) s = .next t ∧ exec i t = .next u ∧ u.fault = none))

/-- R107 (a) (a derived rule): after `KEYLOAD c, k`, whatever commands follow that do not write context `c` and do not halt the
core, `ENC c, x` returns `encrypt_value(ScheduleOf(k), x)`. -/
def Obligations.EncAfterKeyloadIsDeterministic : Prop :=
  ∀ (s t u : State) (c : Nat) (k x : Block) (is : List Instr),
    s.fault = none → c < s.nctx → s.engineOk = true → exec (.keyload c k) s = .next t →
    (∀ i ∈ is, writtenContext i ≠ some c) → execAll is t = .next u → u.fault = none →
    exec (.enc c x) u = .next (answered u (some (encryptValue (scheduleOf k) x)))

/-- R107 (c), R59 (derived): the byte-typed forms are the value-typed commands on the numerically equal value: the same encoding, the
same outcome in every state; and where ENCB completes, the result it reports is the byte string `encrypt_block` gives. -/
def Obligations.ByteTypedFormsAgree : Prop :=
  ∀ (c : Nat) (b : Bytes16) (v : Block) (s : State), fromBytes b = v →
    encode (keyloadB c b) = encode (.keyload c v) ∧ encode (encB c b) = encode (.enc c v) ∧
      exec (keyloadB c b) s = exec (.keyload c v) s ∧ exec (encB c b) s = exec (.enc c v) s ∧
      (∀ rk, toBytes (encryptValue rk v) = encryptBlock rk b) ∧
      (∀ rk, s.fault = none → s.rk c = some rk → s.engineOk = true →
        ∃ t r, exec (encB c b) s = .next t ∧ t.responses = s.responses ++ [r] ∧
          encBResult r = some (encryptBlock rk b))

/-! ### Byte order and the engine (spec/20_memory.md R30, spec/40_aes_primitives.md) -/

/-- R30: byte `i` is bits `8i+7 : 8i`; the value is the sum of the bytes at their weights; the two conversions are inverse. -/
def Obligations.ByteOrderIsLittleEndian : Prop :=
  (∀ (v : Block) (i : Fin 16), (toBytes v)[i] = v.extractLsb' (8 * i.val) 8) ∧
  (∀ b : Bytes16, (fromBytes b).toNat = ∑ i : Fin 16, 2 ^ (8 * i.val) * (b[i]).toNat) ∧
  (∀ v : Block, fromBytes (toBytes v) = v) ∧ (∀ b : Bytes16, toBytes (fromBytes b) = b)

/-- R13, R102, R31 (b): byte `16*r + j` of the buffer is bits `8j+7 : 8j` of `RK[r]`; the buffer of a loaded schedule is KeyExpand of
the key's bytes; round key 0 is the key. -/
def Obligations.ScheduleLayout : Prop :=
  (∀ (s : Schedule) (r : Fin 11) (j : Fin 16),
    (scheduleBytes s)[16 * r.val + j.val]'(by omega) = (s[r]).extractLsb' (8 * j.val) 8) ∧
  (∀ key : Block, scheduleBytes (scheduleOf key) = keyExpand (toBytes key)) ∧
  (∀ key : Block, (scheduleOf key)[0] = key)

/-- R73, R81: the recurrence of the key expansion on the 176 bytes, and the round constants as powers of `x`. -/
def Obligations.KeyExpansionRecurrence : Prop :=
  (∀ (k : Bytes16) (j : Fin 16), (keyExpand k)[j.val] = k[j]) ∧
  (∀ (k : Bytes16) (i : Nat) (j : Fin 4) (_ : 4 ≤ i) (_ : i < 44), i % 4 ≠ 0 →
    (keyExpand k)[4 * i + j.val] =
      (keyExpand k)[4 * (i - 4) + j.val] ^^^ (keyExpand k)[4 * (i - 1) + j.val]) ∧
  (∀ (k : Bytes16) (i : Nat) (j : Fin 4) (_ : 4 ≤ i) (_ : i < 44), i % 4 = 0 →
    (keyExpand k)[4 * i + j.val] =
      (keyExpand k)[4 * (i - 4) + j.val] ^^^
        sbox ((keyExpand k)[4 * (i - 1) + (j.val + 1) % 4]) ^^^ (if j.val = 0 then rcon (i / 4) else 0)) ∧
  rcon 1 = 1 ∧ (∀ i : Fin 9, rcon (i.val + 2) = xtime (rcon (i.val + 1)))

/-- R77: multiplication in GF(2^8) is polynomial multiplication over GF(2) modulo x^8 + x^4 + x^3 + x + 1; `xtime` is its shift form,
and the products by 2 and 3 are made of it. -/
def Obligations.GmulIsPolynomialMultiplication : Prop :=
  let poly : Byte → Polynomial (ZMod 2) := fun a =>
    ∑ i : Fin 8, if a.getLsbD i.val then Polynomial.X ^ i.val else 0
  let m : Polynomial (ZMod 2) := Polynomial.X ^ 8 + Polynomial.X ^ 4 + Polynomial.X ^ 3 + Polynomial.X + 1
  (∀ a b : Byte, poly (gmul a b) = (poly a * poly b).modByMonic m) ∧
    (∀ a : Byte, xtime a = if a.getLsbD 7 then (a <<< 1) ^^^ 0x1b else a <<< 1) ∧
    (∀ a : Byte, gmul 2 a = xtime a ∧ gmul 3 a = xtime a ^^^ a)

/-- R74, R75: the S-box is the affine map of the inverse in GF(2^8), 0 taken to itself by the inverse, and is a permutation; SubBytes
is the S-box on each byte. -/
def Obligations.SboxIsTheAffineInverse : Prop :=
  let affine : Byte → Byte := fun b =>
    b ^^^ b.rotateLeft 1 ^^^ b.rotateLeft 2 ^^^ b.rotateLeft 3 ^^^ b.rotateLeft 4 ^^^ 0x63
  sbox 0 = affine 0 ∧ (∀ a b : Byte, gmul a b = 1 → sbox a = affine b) ∧
    (∀ a : Byte, a ≠ 0 → ∃ b, gmul a b = 1) ∧ Function.Bijective sbox ∧
    (∀ (s : Bytes16) (i : Fin 16), (subBytes s)[i] = sbox s[i])

/-- R76: row `r` of the state is rotated left by `r` positions, and the byte permutation the rule writes out is that rotation. -/
def Obligations.ShiftRowsRotatesTheRows : Prop :=
  ∀ s : Bytes16,
    (∀ r c : Fin 4, (shiftRows s)[r.val + 4 * c.val]'(by omega) =
      s[r.val + 4 * ((c.val + r.val) % 4)]'(by omega)) ∧
    shiftRows s = #v[s[0], s[5], s[10], s[15], s[4], s[9], s[14], s[3], s[8], s[13], s[2], s[7], s[12], s[1], s[6], s[11]]

/-- R78: each column is multiplied by the matrix with rows (2 3 1 1), (1 2 3 1), (1 1 2 3), (3 1 1 2), the products those of R77. -/
def Obligations.MixColumnsIsTheMatrixProduct : Prop :=
  ∀ (s : Bytes16) (c r : Fin 4),
    (mixColumns s)[4 * c.val + r.val]'(by omega) =
      gmul ((#v[2, 1, 1, 3] : Vector Byte 4)[r]) (s[4 * c.val]'(by omega)) ^^^
      gmul ((#v[3, 2, 1, 1] : Vector Byte 4)[r]) (s[4 * c.val + 1]'(by omega)) ^^^
      gmul ((#v[1, 3, 2, 1] : Vector Byte 4)[r]) (s[4 * c.val + 2]'(by omega)) ^^^
      gmul ((#v[1, 1, 3, 2] : Vector Byte 4)[r]) (s[4 * c.val + 3]'(by omega))

/-- R79 (its second sentence derived there from R30): AddRoundKey is the XOR of the bytes, and on values the XOR of the two 128-bit
values. -/
def Obligations.AddRoundKeyIsXor : Prop :=
  (∀ (s k : Bytes16) (i : Fin 16), (addRoundKey s k)[i] = s[i] ^^^ k[i]) ∧
  (∀ s k : Bytes16, fromBytes (addRoundKey s k) = fromBytes s ^^^ fromBytes k)

/-- R80: the cipher is AddRoundKey with `w_0`, nine rounds of SubBytes, ShiftRows, MixColumns, AddRoundKey with `w_1` to `w_9`, and a
last round without MixColumns with `w_10`; `w_r` is the bytes `w[16*r .. 16*r+15]`. -/
def Obligations.CipherHasTenRounds : Prop :=
  (∀ (w : Bytes176) (r : Fin 11) (j : Fin 16), (roundKey w r)[j] = w[16 * r.val + j.val]'(by omega)) ∧
  (∀ (w : Bytes176) (input : Bytes16),
    let round : Fin 11 → Bytes16 → Bytes16 := fun r s =>
      addRoundKey (mixColumns (shiftRows (subBytes s))) (roundKey w r)
    cipher w input =
      addRoundKey
        (shiftRows (subBytes
          (round 9 (round 8 (round 7 (round 6 (round 5 (round 4 (round 3 (round 2 (round 1
            (addRoundKey input (roundKey w 0)))))))))))))
        (roundKey w 10))

/-- R82: for any fixed schedule the cipher is a bijection on 16-byte sequences. -/
def Obligations.CipherIsAPermutation : Prop :=
  ∀ w : Bytes176, Function.Bijective (cipher w)

/-- R107 (b) (derived), for any schedule: `encrypt_value` is a bijection on 128-bit values, so distinct blocks encrypted by ENC under
one context have distinct results. -/
def Obligations.EncryptValueIsAPermutation : Prop :=
  ∀ s : Schedule, Function.Bijective (encryptValue s)

/-! ### FieldDouble and TweakHash (spec/42_fielddouble.md, spec/43_tweakhash.md) -/

/-- R120, bit by bit: bit 0 is the old bit 127; bits 1, 2 and 7 are the bit below XOR the old bit 127; every other bit is the bit
below; and the two cases of the shift form. -/
def Obligations.DoubleBitByBit : Prop :=
  ∀ v : Block,
    (double v).getLsbD 0 = v.getLsbD 127 ∧
    (∀ i, i = 1 ∨ i = 2 ∨ i = 7 → (double v).getLsbD i = (v.getLsbD (i - 1) ^^ v.getLsbD 127)) ∧
    (∀ i, 1 ≤ i → i ≤ 127 → i ≠ 1 → i ≠ 2 → i ≠ 7 → (double v).getLsbD i = v.getLsbD (i - 1)) ∧
    (v.getLsbD 127 = false → double v = v <<< 1) ∧
    (v.getLsbD 127 = true → double v = (v <<< 1) ^^^ 0x87)

/-- R122 (a derived rule): reading bit `i` of the number as the coefficient of `x^i`, `double` is multiplication by `x` modulo
x^128 + x^7 + x^2 + x + 1. -/
def Obligations.DoubleIsMultiplicationByX : Prop :=
  let poly : Block → Polynomial (ZMod 2) := fun v =>
    ∑ i : Fin 128, if v.getLsbD i.val then Polynomial.X ^ i.val else 0
  let p : Polynomial (ZMod 2) := Polynomial.X ^ 128 + Polynomial.X ^ 7 + Polynomial.X ^ 2 + Polynomial.X + 1
  ∀ v : Block, poly (double v) = (Polynomial.X * poly v).modByMonic p

/-- R122 (a derived rule): `double` is linear over XOR, takes 0 to 0, and is a bijection whose inverse is `halve`. -/
def Obligations.DoubleIsALinearBijection : Prop :=
  (∀ a b : Block, double (a ^^^ b) = double a ^^^ double b) ∧ double 0 = 0 ∧
    (∀ v : Block, halve (double v) = v) ∧ (∀ w : Block, double (halve w) = w)

/-- R135 (a): on a live core HASH2 leaves the same state and gives the same response as HASH on `x` XOR the result of `DBL y`. -/
def Obligations.Hash2IsHashOfTheDoubledXor : Prop :=
  ∀ (s : State) (c : Nat) (tweak x y : Block), s.fault = none →
    ∃ d, exec (.dbl y) s = .next (answered s (some d)) ∧
      exec (.hash2 c tweak x y) s = exec (.hash c tweak (x ^^^ d)) s

/-- R132, R133, R135 (c), corner cases of the two hashes: the tweak enters by XOR only and is a bijection, `x = 0` and `y = 0` drop
out, and `x = double(y)` gives `encrypt_value(0) ^ tweak`. -/
def Obligations.TweakHashCornerCases : Prop :=
  ∀ (rk : Schedule) (tweak e x y : Block),
    tweakHash rk (tweak ^^^ e) x = tweakHash rk tweak x ^^^ e ∧
    Function.Bijective (fun t => tweakHash rk t x) ∧
    tweakHash rk tweak 0 = encryptValue rk 0 ^^^ tweak ∧
    tweakHash2 rk tweak x 0 = tweakHash rk tweak x ∧
    tweakHash2 rk tweak (double y) y = encryptValue rk 0 ^^^ tweak
end

