-- ==== Sys2Proof/Laws/State.lean ====
section
/-! SUPPORT. What each update of the state does to each field, and to the views of the state; one lemma per field per update. -/

namespace Sys2Proof.Machine

/-! ### Fields -/

@[simp] theorem State.setRk_ctx (s : State) (c : Nat) (v : Option Schedule) : (s.setRk c v).ctx = writeContext s.ctx c v := rfl
@[simp] theorem State.setRk_fault (s : State) (c : Nat) (v : Option Schedule) : (s.setRk c v).fault = s.fault := rfl
@[simp] theorem State.setRk_defaultRk (s : State) (c : Nat) (v : Option Schedule) : (s.setRk c v).defaultRk = s.defaultRk := rfl
@[simp] theorem State.setRk_events (s : State) (c : Nat) (v : Option Schedule) : (s.setRk c v).events = s.events := rfl
@[simp] theorem State.setRk_engineOk (s : State) (c : Nat) (v : Option Schedule) : (s.setRk c v).engineOk = s.engineOk := rfl
@[simp] theorem State.setRk_responses (s : State) (c : Nat) (v : Option Schedule) : (s.setRk c v).responses = s.responses := rfl

@[simp] theorem State.deliver_ctx (s : State) (r : Option Block) : (s.deliver r).ctx = s.ctx := rfl
@[simp] theorem State.deliver_fault (s : State) (r : Option Block) : (s.deliver r).fault = s.fault := rfl
@[simp] theorem State.deliver_defaultRk (s : State) (r : Option Block) : (s.deliver r).defaultRk = s.defaultRk := rfl
@[simp] theorem State.deliver_events (s : State) (r : Option Block) : (s.deliver r).events = s.events := rfl
@[simp] theorem State.deliver_engineOk (s : State) (r : Option Block) : (s.deliver r).engineOk = s.engineOk := rfl
@[simp] theorem State.deliver_responses (s : State) (r : Option Block) : (s.deliver r).responses = s.responses ++ [⟨s.status, r⟩] := rfl

@[simp] theorem State.respond_ctx (s : State) : (s.respond).ctx = s.ctx := rfl
@[simp] theorem State.respond_fault (s : State) : (s.respond).fault = s.fault := rfl
@[simp] theorem State.respond_defaultRk (s : State) : (s.respond).defaultRk = s.defaultRk := rfl
@[simp] theorem State.respond_events (s : State) : (s.respond).events = s.events := rfl
@[simp] theorem State.respond_engineOk (s : State) : (s.respond).engineOk = s.engineOk := rfl
@[simp] theorem State.respond_responses (s : State) : (s.respond).responses = s.responses ++ [⟨s.status, none⟩] := rfl

@[simp] theorem State.respondWith_ctx (s : State) (v : Block) : (s.respondWith v).ctx = s.ctx := rfl
@[simp] theorem State.respondWith_fault (s : State) (v : Block) : (s.respondWith v).fault = s.fault := rfl
@[simp] theorem State.respondWith_defaultRk (s : State) (v : Block) : (s.respondWith v).defaultRk = s.defaultRk := rfl
@[simp] theorem State.respondWith_events (s : State) (v : Block) : (s.respondWith v).events = s.events := rfl
@[simp] theorem State.respondWith_engineOk (s : State) (v : Block) : (s.respondWith v).engineOk = s.engineOk := rfl
@[simp] theorem State.respondWith_responses (s : State) (v : Block) : (s.respondWith v).responses = s.responses ++ [⟨s.status, some v⟩] := rfl

@[simp] theorem State.halt_ctx (s : State) (k : Cause) : (s.halt k).ctx = s.ctx := rfl
@[simp] theorem State.halt_fault (s : State) (k : Cause) : (s.halt k).fault = some k := rfl
@[simp] theorem State.halt_defaultRk (s : State) (k : Cause) : (s.halt k).defaultRk = s.defaultRk := rfl
@[simp] theorem State.halt_events (s : State) (k : Cause) : (s.halt k).events = s.events := rfl
@[simp] theorem State.halt_engineOk (s : State) (k : Cause) : (s.halt k).engineOk = s.engineOk := rfl
@[simp] theorem State.halt_responses (s : State) (k : Cause) : (s.halt k).responses = s.responses := rfl

@[simp] theorem State.raiseFault_ctx (s : State) (k : Cause) : (s.raiseFault k).ctx = s.ctx := rfl
@[simp] theorem State.raiseFault_fault (s : State) (k : Cause) : (s.raiseFault k).fault = some k := rfl
@[simp] theorem State.raiseFault_defaultRk (s : State) (k : Cause) : (s.raiseFault k).defaultRk = s.defaultRk := rfl
@[simp] theorem State.raiseFault_events (s : State) (k : Cause) : (s.raiseFault k).events = s.events := rfl
@[simp] theorem State.raiseFault_engineOk (s : State) (k : Cause) : (s.raiseFault k).engineOk = s.engineOk := rfl
@[simp] theorem State.raiseFault_responses (s : State) (k : Cause) : (s.raiseFault k).responses = s.responses ++ [⟨(s.halt k).status, none⟩] := rfl

@[simp] theorem State.resetCore_ctx (s : State) : (s.resetCore).ctx = resetContexts s.nctx s.defaultRk := rfl
@[simp] theorem State.resetCore_fault (s : State) : (s.resetCore).fault = none := rfl
@[simp] theorem State.resetCore_defaultRk (s : State) : (s.resetCore).defaultRk = s.defaultRk := rfl
@[simp] theorem State.resetCore_events (s : State) : (s.resetCore).events = s.events := rfl
@[simp] theorem State.resetCore_engineOk (s : State) : (s.resetCore).engineOk = s.engineOk := rfl
@[simp] theorem State.resetCore_responses (s : State) : (s.resetCore).responses = s.responses := rfl

@[simp] theorem State.accept_ctx (s : State) (rest : List Event) (ok : Bool) : (s.accept rest ok).ctx = s.ctx := rfl
@[simp] theorem State.accept_fault (s : State) (rest : List Event) (ok : Bool) : (s.accept rest ok).fault = s.fault := rfl
@[simp] theorem State.accept_defaultRk (s : State) (rest : List Event) (ok : Bool) : (s.accept rest ok).defaultRk = s.defaultRk := rfl
@[simp] theorem State.accept_events (s : State) (rest : List Event) (ok : Bool) : (s.accept rest ok).events = rest := rfl
@[simp] theorem State.accept_engineOk (s : State) (rest : List Event) (ok : Bool) : (s.accept rest ok).engineOk = ok := rfl
@[simp] theorem State.accept_responses (s : State) (rest : List Event) (ok : Bool) : (s.accept rest ok).responses = s.responses := rfl

@[simp] theorem State.placeCommand_ctx (s : State) (cmd : Command) : (s.placeCommand cmd).ctx = s.ctx := rfl
@[simp] theorem State.placeCommand_fault (s : State) (cmd : Command) : (s.placeCommand cmd).fault = s.fault := rfl
@[simp] theorem State.placeCommand_defaultRk (s : State) (cmd : Command) : (s.placeCommand cmd).defaultRk = s.defaultRk := rfl
@[simp] theorem State.placeCommand_events (s : State) (cmd : Command) : (s.placeCommand cmd).events = .command cmd true :: s.events := rfl
@[simp] theorem State.placeCommand_engineOk (s : State) (cmd : Command) : (s.placeCommand cmd).engineOk = s.engineOk := rfl
@[simp] theorem State.placeCommand_responses (s : State) (cmd : Command) : (s.placeCommand cmd).responses = s.responses := rfl

/-! ### Views: they look at `ctx` and `fault` alone -/

@[simp] theorem State.deliver_nctx (s : State) (r : Option Block) : (s.deliver r).nctx = s.nctx := rfl
@[simp] theorem State.deliver_rk (s : State) (r : Option Block) (c : Nat) : (s.deliver r).rk c = s.rk c := rfl
@[simp] theorem State.deliver_valid (s : State) (r : Option Block) (c : Nat) : (s.deliver r).valid c = s.valid c := rfl
@[simp] theorem State.deliver_halted (s : State) (r : Option Block) : (s.deliver r).halted = s.halted := rfl
@[simp] theorem State.deliver_status (s : State) (r : Option Block) : (s.deliver r).status = s.status := rfl

@[simp] theorem State.respond_nctx (s : State) : (s.respond).nctx = s.nctx := rfl
@[simp] theorem State.respond_rk (s : State) (c : Nat) : (s.respond).rk c = s.rk c := rfl
@[simp] theorem State.respond_valid (s : State) (c : Nat) : (s.respond).valid c = s.valid c := rfl
@[simp] theorem State.respond_halted (s : State) : (s.respond).halted = s.halted := rfl
@[simp] theorem State.respond_status (s : State) : (s.respond).status = s.status := rfl

@[simp] theorem State.respondWith_nctx (s : State) (v : Block) : (s.respondWith v).nctx = s.nctx := rfl
@[simp] theorem State.respondWith_rk (s : State) (v : Block) (c : Nat) : (s.respondWith v).rk c = s.rk c := rfl
@[simp] theorem State.respondWith_valid (s : State) (v : Block) (c : Nat) : (s.respondWith v).valid c = s.valid c := rfl
@[simp] theorem State.respondWith_halted (s : State) (v : Block) : (s.respondWith v).halted = s.halted := rfl
@[simp] theorem State.respondWith_status (s : State) (v : Block) : (s.respondWith v).status = s.status := rfl

@[simp] theorem State.halt_nctx (s : State) (k : Cause) : (s.halt k).nctx = s.nctx := rfl
@[simp] theorem State.halt_rk (s : State) (k : Cause) (c : Nat) : (s.halt k).rk c = s.rk c := rfl
@[simp] theorem State.halt_valid (s : State) (k : Cause) (c : Nat) : (s.halt k).valid c = s.valid c := rfl

@[simp] theorem State.raiseFault_nctx (s : State) (k : Cause) : (s.raiseFault k).nctx = s.nctx := rfl
@[simp] theorem State.raiseFault_rk (s : State) (k : Cause) (c : Nat) : (s.raiseFault k).rk c = s.rk c := rfl
@[simp] theorem State.raiseFault_valid (s : State) (k : Cause) (c : Nat) : (s.raiseFault k).valid c = s.valid c := rfl

@[simp] theorem State.accept_nctx (s : State) (rest : List Event) (ok : Bool) : (s.accept rest ok).nctx = s.nctx := rfl
@[simp] theorem State.accept_rk (s : State) (rest : List Event) (ok : Bool) (c : Nat) : (s.accept rest ok).rk c = s.rk c := rfl
@[simp] theorem State.accept_valid (s : State) (rest : List Event) (ok : Bool) (c : Nat) : (s.accept rest ok).valid c = s.valid c := rfl
@[simp] theorem State.accept_halted (s : State) (rest : List Event) (ok : Bool) : (s.accept rest ok).halted = s.halted := rfl
@[simp] theorem State.accept_status (s : State) (rest : List Event) (ok : Bool) : (s.accept rest ok).status = s.status := rfl

@[simp] theorem State.placeCommand_nctx (s : State) (cmd : Command) : (s.placeCommand cmd).nctx = s.nctx := rfl
@[simp] theorem State.placeCommand_rk (s : State) (cmd : Command) (c : Nat) : (s.placeCommand cmd).rk c = s.rk c := rfl
@[simp] theorem State.placeCommand_valid (s : State) (cmd : Command) (c : Nat) : (s.placeCommand cmd).valid c = s.valid c := rfl
@[simp] theorem State.placeCommand_halted (s : State) (cmd : Command) : (s.placeCommand cmd).halted = s.halted := rfl
@[simp] theorem State.placeCommand_status (s : State) (cmd : Command) : (s.placeCommand cmd).status = s.status := rfl

@[simp] theorem State.setRk_nctx (s : State) (c : Nat) (v : Option Schedule) : (s.setRk c v).nctx = s.nctx := by
  simp [State.nctx, State.setRk, writeContext]

@[simp] theorem State.setRk_halted (s : State) (c : Nat) (v : Option Schedule) : (s.setRk c v).halted = s.halted := rfl

@[simp] theorem State.halt_halted (s : State) (k : Cause) : (s.halt k).halted = true := rfl

@[simp] theorem State.raiseFault_halted (s : State) (k : Cause) : (s.raiseFault k).halted = true := rfl

@[simp] theorem State.raiseFault_status (s : State) (k : Cause) : (s.raiseFault k).status = (s.halt k).status := rfl

@[simp] theorem resetContexts_length (n : Nat) (d : Option Schedule) : (resetContexts n d).length = n := by
  simp [resetContexts, writeContext]

@[simp] theorem State.resetCore_nctx (s : State) : s.resetCore.nctx = s.nctx := by
  simp [State.nctx]

@[simp] theorem State.resetCore_halted (s : State) : s.resetCore.halted = false := rfl

/-- STATUS is a view of `ctx` and `fault` (R18): states that agree on them show the same STATUS. -/
theorem State.status_congr {s t : State} (hc : s.ctx = t.ctx) (hf : s.fault = t.fault) : s.status = t.status := by
  simp only [State.status, State.validField, State.causeField, State.halted, State.valid, State.rk, hc, hf]

end Sys2Proof.Machine
end

