-- ==== Sys2Proof/Laws/Ops.lean ====
section
/-! SUPPORT. What each shared operation can do, said once: reading after writing a context, the four checks of
spec/60_exceptions.md R150, and taking an event from the port. -/

namespace Sys2Proof.Machine

/-! ### The context store -/

theorem readContext_writeContext_same {st : Contexts} {c : Nat} (h : c < st.length) (v : Option Schedule) :
    readContext (writeContext st c v) c = v := by
  simp [readContext, writeContext, h]

theorem readContext_writeContext_other (st : Contexts) {c d : Nat} (h : d ≠ c) (v : Option Schedule) :
    readContext (writeContext st c v) d = readContext st d := by
  simp [readContext, writeContext, List.getElem?_set_ne h.symm]

theorem readContext_past_end {st : Contexts} {c : Nat} (h : st.length ≤ c) : readContext st c = none := by
  simp [readContext, List.getElem?_eq_none h]

/-- Reading a context after reset (R22). -/
theorem readContext_resetContexts (n c : Nat) (d : Option Schedule) :
    readContext (resetContexts n d) c = if c = 0 ∧ 0 < n then d else none := by
  cases n with
  | zero => simp [readContext, resetContexts, writeContext]
  | succ n =>
    by_cases h : c = 0
    · subst h; simp [readContext, resetContexts, writeContext]
    · obtain ⟨m, rfl⟩ := Nat.exists_eq_succ_of_ne_zero h
      by_cases hm : m < n <;>
        simp [readContext, resetContexts, writeContext, List.replicate_succ, hm]

theorem State.rk_setRk_same {s : State} {c : Nat} (h : c < s.nctx) (v : Option Schedule) : (s.setRk c v).rk c = v :=
  readContext_writeContext_same h v

theorem State.rk_setRk_other (s : State) {c d : Nat} (h : d ≠ c) (v : Option Schedule) : (s.setRk c v).rk d = s.rk d :=
  readContext_writeContext_other s.ctx h v

/-- A context that holds a schedule exists. -/
theorem State.lt_nctx_of_rk {s : State} {c : Nat} {rk : Schedule} (h : s.rk c = some rk) : c < s.nctx := by
  by_contra hc
  rw [State.rk, readContext_past_end (not_lt.mp hc)] at h
  cases h

/-! ### HALT -/

theorem State.halted_eq_false {s : State} (h : s.fault = none) : s.halted = false := by simp [State.halted, h]

theorem State.halted_eq_true {s : State} {k : Cause} (h : s.fault = some k) : s.halted = true := by
  simp [State.halted, h]

/-! ### The checks of R150 -/

theorem State.unlessHalted_live {s : State} (h : s.fault = none) (live : State) : s.unlessHalted live = live := by
  simp [State.unlessHalted, State.halted_eq_false h]

theorem State.unlessHalted_halted {s : State} {k : Cause} (h : s.fault = some k) (live : State) :
    s.unlessHalted live = s.respond := by
  simp [State.unlessHalted, State.halted_eq_true h]

theorem State.needContext_of_lt {s : State} {c : Nat} (h : c < s.nctx) (ok : State) : s.needContext c ok = ok := by
  simp [State.needContext, not_le.mpr h]

theorem State.needContext_of_le {s : State} {c : Nat} (h : s.nctx ≤ c) (ok : State) :
    s.needContext c ok = s.raiseFault .badCtx := by
  simp [State.needContext, h]

theorem State.needKey_some {s : State} {c : Nat} {rk : Schedule} (h : s.rk c = some rk) (ok : Schedule → State) :
    s.needKey c ok = ok rk := by
  simp [State.needKey, h]

theorem State.needKey_none {s : State} {c : Nat} (h : s.rk c = none) (ok : Schedule → State) :
    s.needKey c ok = s.raiseFault .noKey := by
  simp [State.needKey, h]

theorem State.needEngine_true {s : State} (h : s.engineOk = true) (ok : State) : s.needEngine ok = ok := by
  simp [State.needEngine, h]

theorem State.needEngine_false {s : State} (h : s.engineOk = false) (ok : State) :
    s.needEngine ok = s.raiseFault .engine := by
  simp [State.needEngine, h]

/-- Everything the halt check can do (R150 step 1). -/
theorem State.unlessHalted_cases (s live : State) :
    (s.fault = none ∧ s.unlessHalted live = live) ∨ (∃ k, s.fault = some k ∧ s.unlessHalted live = s.respond) := by
  rcases h : s.fault with _ | k
  · exact .inl ⟨rfl, State.unlessHalted_live h live⟩
  · exact .inr ⟨k, rfl, State.unlessHalted_halted h live⟩

/-- Everything the range check can do (R150 step 3). -/
theorem State.needContext_cases (s : State) (c : Nat) (ok : State) :
    (c < s.nctx ∧ s.needContext c ok = ok) ∨ (s.nctx ≤ c ∧ s.needContext c ok = s.raiseFault .badCtx) := by
  rcases lt_or_ge c s.nctx with h | h
  · exact .inl ⟨h, State.needContext_of_lt h ok⟩
  · exact .inr ⟨h, State.needContext_of_le h ok⟩

/-- Everything the key check can do (R150 step 4). -/
theorem State.needKey_cases (s : State) (c : Nat) (ok : Schedule → State) :
    (∃ rk, s.rk c = some rk ∧ s.needKey c ok = ok rk) ∨ (s.rk c = none ∧ s.needKey c ok = s.raiseFault .noKey) := by
  rcases h : s.rk c with _ | rk
  · exact .inr ⟨rfl, State.needKey_none h ok⟩
  · exact .inl ⟨rk, rfl, State.needKey_some h ok⟩

/-- Everything the engine check can do (R150 step 5). -/
theorem State.needEngine_cases (s : State) (ok : State) :
    (s.engineOk = true ∧ s.needEngine ok = ok) ∨ (s.engineOk = false ∧ s.needEngine ok = s.raiseFault .engine) := by
  cases h : s.engineOk
  · exact .inr ⟨rfl, State.needEngine_false h ok⟩
  · exact .inl ⟨rfl, State.needEngine_true h ok⟩

/-! ### Taking an event -/

theorem State.takeEvent_idle {s : State} (h : s.events = []) (run : Instr → State → Host.Outcome State Fault Refusal) :
    s.takeEvent run = .next s := by
  simp [State.takeEvent, h]

theorem State.takeEvent_reset {s : State} {rest : List Event} (h : s.events = .reset :: rest)
    (run : Instr → State → Host.Outcome State Fault Refusal) :
    s.takeEvent run = .next { s.resetCore with events := rest } := by
  simp [State.takeEvent, h]

theorem State.takeEvent_decoded {s : State} {rest : List Event} {cmd : Command} {ok : Bool} {i : Instr}
    (h : s.events = .command cmd ok :: rest) (hi : decode cmd.header cmd.ops = .ok i)
    (run : Instr → State → Host.Outcome State Fault Refusal) :
    s.takeEvent run = run i (s.accept rest ok) := by
  simp [State.takeEvent, h, hi]

theorem State.takeEvent_malformed {s : State} {rest : List Event} {cmd : Command} {ok : Bool} {e : DecodeError}
    (h : s.events = .command cmd ok :: rest) (he : decode cmd.header cmd.ops = .error e)
    (run : Instr → State → Host.Outcome State Fault Refusal) :
    s.takeEvent run = .next (s.accept rest ok).rejectMalformed := by
  simp [State.takeEvent, h, he]

end Sys2Proof.Machine
end

