-- ==== Sys2Proof/Laws/Bytes.lean ====
section
/-! SUPPORT. The byte-order functions, bit by bit and byte by byte (spec/20_memory.md R30). -/

namespace Sys2Proof.Machine

theorem getElem_toBytes (v : Block) (i : Nat) (h : i < 16) : (toBytes v)[i] = v.extractLsb' (8 * i) 8 := by
  simp [toBytes]

theorem getElem_subBytes (s : Bytes16) (i : Nat) (h : i < 16) : (subBytes s)[i] = sbox s[i] := by
  simp [subBytes]

theorem getElem_addRoundKey (s k : Bytes16) (i : Nat) (h : i < 16) : (addRoundKey s k)[i] = s[i] ^^^ k[i] := by
  simp [addRoundKey]

theorem getElem_shiftRows (s : Bytes16) (i : Nat) (h : i < 16) :
    (shiftRows s)[i] = s[i % 4 + 4 * ((i / 4 + i % 4) % 4)]'(by omega) := by
  simp [shiftRows]

theorem getElem_roundKey (w : Bytes176) (r : Fin 11) (j : Nat) (h : j < 16) :
    (roundKey w r)[j] = w[16 * r.val + j]'(by omega) := by
  simp [roundKey]

end Sys2Proof.Machine
end

