-- ==== Sys2Proof/Laws/Codec.lean ====
section
/-! SUPPORT. The encoder against the table of spec/30_encoding.md R55, one header shape at a time. -/

namespace Sys2Proof

/-- A header with the CTX field filled fits a row with mask `0xFFFFFF0F`, whatever the context number. -/
theorem ctxHeader_masked (m : Fin 16) (c : Fin 16) :
    (BitVec.ofNat 32 m.val ||| ctxBits c.val) &&& 0xFFFFFF0F = BitVec.ofNat 32 m.val := by
  revert m c; decide

/-- A KEYCOPY header fits its row, whatever the two context numbers. -/
theorem copyHeader_masked (d c : Fin 16) :
    ((0x00000002 : Header) ||| ctxBits d.val ||| srcBits c.val) &&& 0xFFFFF00F = 0x00000002 := by
  revert d c; decide

end Sys2Proof
end

