-- ==== Sys2Proof/Laws/Exec.lean ====
section
/-! SUPPORT. Everything the execution of a decoded command can do, said once (spec/60_exceptions.md R150): a halted core answers
and keeps its state; a live one takes the first fault that applies, or has the command's effect and responds. -/

namespace Sys2Proof.Machine

/-- The state after the command's own commandEffect, when it does not fault (R16). -/
def commandEffect (s : State) : Instr → State
  | .keyload c key => s.setRk c (some (scheduleOf key))
  | .keycopy d src => s.setRk d (s.rk src)
  | .keydrop c => s.setRk c none
  | .enc _ _ => s
  | .dbl _ => s
  | .hash _ _ _ => s
  | .hash2 _ _ _ _ => s
  | .stat => s

theorem State.valid_eq_isSome (s : State) (c : Nat) : s.valid c = (s.rk c).isSome := rfl

/-- On a halted core: the fault response and nothing else (R150 step 1). -/
theorem exec_halted (i : Instr) {s : State} {k : Cause} (h : s.fault = some k) : exec i s = .next s.respond := by
  cases i <;>
    simp only [exec, execKeyload, execKeycopy, execKeydrop, execEnc, execDbl, execHash, execHash2, execStat,
      State.unlessHalted_halted h]

/-- On a live core: the first fault that applies, or the command's effect and its response (R150 steps 3 to 6). -/
theorem exec_live (i : Instr) {s : State} (h : s.fault = none) :
    exec i s = .next (match firstCause i s with
      | some k => s.raiseFault k
      | none => (commandEffect s i).deliver (resultBlock s i)) := by
  cases i with
  | keyload c key =>
    by_cases hc : s.nctx ≤ c <;> rcases he : s.engineOk <;>
      simp [exec, execKeyload, State.unlessHalted_live h, State.needContext, State.needEngine, firstCause,
        usedContexts, neededContext, invokesEngine, commandEffect, resultBlock, State.respond, hc, he]
  | keycopy d src =>
    by_cases hd : s.nctx ≤ d <;> by_cases hs : s.nctx ≤ src <;> rcases hk : s.rk src with _ | rk <;>
      simp [exec, execKeycopy, State.unlessHalted_live h, State.needContext, State.needKey, firstCause,
        usedContexts, neededContext, invokesEngine, commandEffect, resultBlock, State.respond, State.valid_eq_isSome, hd, hs, hk]
  | keydrop c =>
    by_cases hc : s.nctx ≤ c <;> rcases hk : s.rk c with _ | rk <;>
      simp [exec, execKeydrop, State.unlessHalted_live h, State.needContext, State.needKey, firstCause,
        usedContexts, neededContext, invokesEngine, commandEffect, resultBlock, State.respond, State.valid_eq_isSome, hc, hk]
  | dbl x =>
    simp [exec, execDbl, State.unlessHalted_live h, firstCause, usedContexts, neededContext, invokesEngine, commandEffect,
      resultBlock, State.respondWith]
  | stat =>
    simp [exec, execStat, State.unlessHalted_live h, firstCause, usedContexts, neededContext, invokesEngine, commandEffect,
      resultBlock, State.respond]
  | enc c x =>
    by_cases hc : s.nctx ≤ c <;> rcases hk : s.rk c with _ | rk <;> rcases he : s.engineOk <;>
      simp [exec, execEnc, State.unlessHalted_live h, State.needContext, State.needKey, State.needEngine, firstCause,
        usedContexts, neededContext, invokesEngine, commandEffect, resultBlock, State.respondWith, State.valid_eq_isSome,
        hc, hk, he]
  | hash c t x =>
    by_cases hc : s.nctx ≤ c <;> rcases hk : s.rk c with _ | rk <;> rcases he : s.engineOk <;>
      simp [exec, execHash, State.unlessHalted_live h, State.needContext, State.needKey, State.needEngine, firstCause,
        usedContexts, neededContext, invokesEngine, commandEffect, resultBlock, State.respondWith, State.valid_eq_isSome,
        hc, hk, he]
  | hash2 c t x y =>
    by_cases hc : s.nctx ≤ c <;> rcases hk : s.rk c with _ | rk <;> rcases he : s.engineOk <;>
      simp [exec, execHash2, State.unlessHalted_live h, State.needContext, State.needKey, State.needEngine, firstCause,
        usedContexts, neededContext, invokesEngine, commandEffect, resultBlock, State.respondWith, State.valid_eq_isSome,
        hc, hk, he]

end Sys2Proof.Machine
end

