-- ==== Sys2Proof/Laws/PerInstr.lean ====
section
/-! SUPPORT. The family `EncodingFitsRow`: the encoding of a well-formed command fits the row of spec/30_encoding.md R55 of its own
operation, header and number of operand blocks. One lemma per constructor. -/

namespace Sys2Proof.Laws.EncodingFitsRow

open Sys2Proof

/-- The encoding fits the operation's own row of the table. -/
def Statement (i : Instr) : Prop :=
  i.wellFormed = true →
    ∃ r ∈ opcodeTable, r.op = i.opcode ∧ (encode i).header &&& r.mask = r.matchBits ∧ (encode i).ops.length = r.nOps

theorem keyload (c : Nat) (key : Block) : Statement (.keyload c key) := by
  intro h
  have hc : c < 16 := of_decide_eq_true h
  exact ⟨⟨.keyload, 1, 0xFFFFFF0F, 1⟩, by decide, rfl, ctxHeader_masked 1 ⟨c, hc⟩, rfl⟩

theorem keycopy (d src : Nat) : Statement (.keycopy d src) := by
  intro h
  obtain ⟨hd, hs⟩ := Bool.and_eq_true_iff.mp h
  exact ⟨⟨.keycopy, 2, 0xFFFFF00F, 0⟩, by decide, rfl,
    copyHeader_masked ⟨d, of_decide_eq_true hd⟩ ⟨src, of_decide_eq_true hs⟩, rfl⟩

theorem keydrop (c : Nat) : Statement (.keydrop c) := by
  intro h
  have hc : c < 16 := of_decide_eq_true h
  exact ⟨⟨.keydrop, 3, 0xFFFFFF0F, 0⟩, by decide, rfl, ctxHeader_masked 3 ⟨c, hc⟩, rfl⟩

theorem enc (c : Nat) (x : Block) : Statement (.enc c x) := by
  intro h
  have hc : c < 16 := of_decide_eq_true h
  exact ⟨⟨.enc, 4, 0xFFFFFF0F, 1⟩, by decide, rfl, ctxHeader_masked 4 ⟨c, hc⟩, rfl⟩

theorem dbl (x : Block) : Statement (.dbl x) := fun _ =>
  ⟨⟨.dbl, 5, 0xFFFFFFFF, 1⟩, by decide, rfl, (by decide : (5 : Header) &&& 0xFFFFFFFF = 5), rfl⟩

theorem hash (c : Nat) (tweak x : Block) : Statement (.hash c tweak x) := by
  intro h
  have hc : c < 16 := of_decide_eq_true h
  exact ⟨⟨.hash, 6, 0xFFFFFF0F, 2⟩, by decide, rfl, ctxHeader_masked 6 ⟨c, hc⟩, rfl⟩

theorem hash2 (c : Nat) (tweak x y : Block) : Statement (.hash2 c tweak x y) := by
  intro h
  have hc : c < 16 := of_decide_eq_true h
  exact ⟨⟨.hash2, 7, 0xFFFFFF0F, 3⟩, by decide, rfl, ctxHeader_masked 7 ⟨c, hc⟩, rfl⟩

theorem stat : Statement .stat := fun _ =>
  ⟨⟨.stat, 8, 0xFFFFFFFF, 0⟩, by decide, rfl, (by decide : (8 : Header) &&& 0xFFFFFFFF = 8), rfl⟩

end Sys2Proof.Laws.EncodingFitsRow
end

