-- ==== Sys2Proof/Tests/Slice0.lean ====
section
/-! SUPPORT. Tests of the model against the spec's own worked examples and vectors (spec/95_test_vectors.md and the rules named), and
for every statement with hypotheses a witness that meets them. -/

/- One theorem after the other: several kernel evaluations of the cipher at once would not fit in memory. -/
set_option Elab.async false

namespace Sys2Proof.Tests

open Sys2Proof Sys2Proof.Machine

/-! ### Helpers -/

/-- A core with these contexts, fault record, `engine_ok` input and pending events. -/
def coreWith (ctx : List (Option Schedule)) (fault : Option Cause := none) (ok : Bool := true)
    (events : List Event := []) : State where
  ctx := ctx
  fault := fault
  defaultRk := none
  events := events
  engineOk := ok
  responses := []

/-- The response a step or a command gives last, where there is a next state. -/
def lastResponse : Host.Outcome State Fault Refusal → Option Response
  | .next t => t.responses.getLast?
  | .fault _ => none
  | .refused _ => none

/-- A view of the next state, where there is one. -/
def nextView {α : Type} (f : State → α) : Host.Outcome State Fault Refusal → Option α
  | .next t => some (f t)
  | .fault _ => none
  | .refused _ => none

/-- Some schedule, where only its presence matters. -/
def zeroRk : Schedule := .replicate 11 0

/-- K1 of spec/95_test_vectors.md. -/
def keyK1 : Block := 0xefdceeba61b63404086a2779e0f9a206

/-- Context 0 loaded with K0, the zero key. -/
def loadedK0 : State := coreWith [some (scheduleOf 0), none, none, none]

/-- Context 1 loaded with K1. -/
def loadedK1 : State := coreWith [none, some (scheduleOf keyK1), none, none]

/-- Context 0 holds some schedule. -/
def oneKey : State := coreWith [some zeroRk, none, none, none]

/-- A halted core, cause NO_KEY, context 1 valid. -/
def haltedCore : State := coreWith [none, some zeroRk, none, none] (some .noKey)

/-! ### Well-formedness: each check refuses a number that does not fit its 4-bit field (R51, R54) -/

theorem test_illFormed_keyload : (Instr.keyload 16 0).wellFormed = false := by decide
theorem test_illFormed_keycopy_destination : (Instr.keycopy 16 0).wellFormed = false := by decide
theorem test_illFormed_keycopy_source : (Instr.keycopy 0 16).wellFormed = false := by decide
theorem test_illFormed_keydrop : (Instr.keydrop 16).wellFormed = false := by decide
theorem test_illFormed_enc : (Instr.enc 16 0).wellFormed = false := by decide
theorem test_illFormed_hash : (Instr.hash 16 0 0).wellFormed = false := by decide
theorem test_illFormed_hash2 : (Instr.hash2 16 0 0 0).wellFormed = false := by decide
theorem test_wellFormed_highest_context : (Instr.keycopy 15 15).wellFormed = true := by decide

/-! ### Decoding: words written out from R51 and R52 -/

/-- V72: KEYLOAD is OPCODE 1, CTX 3 in bits 7:4. -/
theorem test_decode_keyload : decode 0b0000_0000_0000_0000_0000_0000_0011_0001 [7] = .ok (.keyload 3 7) := by decide
/-- R58: KEYCOPY 3, 1 is OPCODE 2, CTX 3, SRC 1 in bits 11:8. -/
theorem test_decode_keycopy : decode 0b0000_0000_0000_0000_0000_0001_0011_0010 [] = .ok (.keycopy 3 1) := by decide
/-- V78: KEYDROP 1. -/
theorem test_decode_keydrop : decode 0b0000_0000_0000_0000_0000_0000_0001_0011 [] = .ok (.keydrop 1) := by decide
/-- V90: ENC 9, x decodes although context 9 is out of range for NCTX = 4. -/
theorem test_decode_enc : decode 0b0000_0000_0000_0000_0000_0000_1001_0100 [7] = .ok (.enc 9 7) := by decide
/-- P1 to P5: DBL. -/
theorem test_decode_dbl : decode 0b0000_0000_0000_0000_0000_0000_0000_0101 [7] = .ok (.dbl 7) := by decide
/-- R53: HASH takes the tweak first. -/
theorem test_decode_hash : decode 0b0000_0000_0000_0000_0000_0000_1111_0110 [7, 8] = .ok (.hash 15 7 8) := by decide
/-- P5 command 7: HASH2 3. -/
theorem test_decode_hash2 : decode 0b0000_0000_0000_0000_0000_0000_0011_0111 [7, 8, 9] = .ok (.hash2 3 7 8 9) := by
  decide
/-- V70: STAT. -/
theorem test_decode_stat : decode 0b0000_0000_0000_0000_0000_0000_0000_1000 [] = .ok .stat := by decide
/-- V80 to V86: each kind of malformed command, by name. -/
theorem test_decode_malformed :
    decode 0x00000000 [] = .error .zeroOpcode ∧ decode 0x00000009 [] = .error .reservedOpcode ∧
    decode 0x00001005 [0] = .error .reservedBits ∧ decode 0x00000015 [0] = .error .contextNotZero ∧
    decode 0x00000104 [0] = .error .sourceNotZero ∧ decode 0x00000006 [0] = .error .wrongOperandCount ∧
    decode 0x00000018 [] = .error .contextNotZero := by decide
/-- R57: a row's word with zero operand blocks, as the opcode table numbers it. -/
theorem test_decodeTableWord : decodeTableWord 32 0x00000027 = some (.hash2 2 0 0 0) := by decide

/-! ### The engine, step by step (V30 to V36) -/

/-- V31, V32. -/
theorem test_gf256 : xtime 0x57 = 0xae ∧ xtime 0x80 = 0x1b ∧ gmul 0x57 0x13 = 0xfe ∧ gmul 0x57 0x83 = 0xc1 := by decide
/-- V33. -/
theorem test_sbox : sbox 0x00 = 0x63 ∧ sbox 0x01 = 0x7c ∧ sbox 0x53 = 0xed ∧ sbox 0xff = 0x16 := by decide
/-- V34. -/
theorem test_shiftRows :
    shiftRows #v[0x00, 0x01, 0x02, 0x03, 0x04, 0x05, 0x06, 0x07, 0x08, 0x09, 0x0a, 0x0b, 0x0c, 0x0d, 0x0e, 0x0f] =
      #v[0x00, 0x05, 0x0a, 0x0f, 0x04, 0x09, 0x0e, 0x03, 0x08, 0x0d, 0x02, 0x07, 0x0c, 0x01, 0x06, 0x0b] := by
  decide +kernel
/-- V35. -/
theorem test_mixColumns :
    mixColumns #v[0xdb, 0x13, 0x53, 0x45, 0xf2, 0x0a, 0x22, 0x5c, 0x01, 0x01, 0x01, 0x01, 0xc6, 0xc6, 0xc6, 0xc6] =
      #v[0x8e, 0x4d, 0xa1, 0xbc, 0x9f, 0xdc, 0x58, 0x9d, 0x01, 0x01, 0x01, 0x01, 0xc6, 0xc6, 0xc6, 0xc6] := by
  decide +kernel
/-- V36. -/
theorem test_rcon :
    (List.range 10).map (fun i => rcon (i + 1)) = [0x01, 0x02, 0x04, 0x08, 0x10, 0x20, 0x40, 0x80, 0x1b, 0x36] := by
  decide
/-- V23: round keys 1 and 10 of K3. -/
theorem test_scheduleOf_K3 :
    (scheduleOf 0x3c4fcf098815f7aba6d2ae2816157e2b)[1] = 0x05766c2a3939a323b12c548817fefaa0 ∧
    (scheduleOf 0x3c4fcf098815f7aba6d2ae2816157e2b)[10] = 0xa60c63b6c80c3fe18925eec9a8f914d0 := by decide +kernel

/-! ### Commands, one step each -/

/-- V72: the response of KEYLOAD 3, K1 from reset. -/
theorem test_keyload_response :
    lastResponse (step (State.reset.placeCommand ⟨0x00000031, [keyK1]⟩)) = some ⟨0x00080000, none⟩ := by decide +kernel
/-- V72, V21: what it stores, and nowhere else. -/
theorem test_keyload_schedule :
    nextView (fun t => ((t.rk 3).map fun rk => rk[10], t.rk 1)) (exec (.keyload 3 keyK1) State.reset) =
      some (some 0xf9ad8be8c1482a6474a0891fb361c7db, none) := by decide +kernel
/-- V73: KEYCOPY 2, 1. -/
theorem test_keycopy_response : lastResponse (exec (.keycopy 2 1) loadedK1) = some ⟨0x00060000, none⟩ := by decide +kernel
/-- V94: from an empty source, context 2 stays empty. -/
theorem test_keycopy_empty_source :
    lastResponse (exec (.keycopy 2 0) loadedK1) = some ⟨0x00020007, none⟩ ∧
    nextView (fun t => t.valid 2) (exec (.keycopy 2 0) loadedK1) = some false := by decide +kernel
/-- V77: KEYDROP 0. -/
theorem test_keydrop_response :
    lastResponse (exec (.keydrop 0) loadedK0) = some ⟨0x00000000, none⟩ ∧
    nextView (fun t => t.valid 0) (exec (.keydrop 0) loadedK0) = some false := by decide +kernel
/-- V95: nothing to drop. -/
theorem test_keydrop_empty : lastResponse (exec (.keydrop 0) State.reset) = some ⟨0x00000007, none⟩ := by decide +kernel
/-- S2, V43: FG's known-answer AES test. -/
theorem test_enc_known_answer :
    lastResponse (exec (.enc 1 0x1cb693c50441de3bce611b4f2318d600) loadedK1) =
      some ⟨0x00020000, some 0x4a9d04f93583f8134a965a0711c3d184⟩ := by decide +kernel
/-- V48: the byte-order discriminator of U2. -/
theorem test_enc_byte_order :
    lastResponse (exec (.enc 0 1) (coreWith [some (scheduleOf 1)])) =
      some ⟨0x00010000, some 0xd6f68b631ccc0ee7ae922e8d8801ebfa⟩ := by decide +kernel
/-- V14: top bit 1. -/
theorem test_dbl_reduces :
    lastResponse (exec (.dbl 0xfedcba98765432100123456789abcdef) State.reset) =
      some ⟨0x00000000, some 0xfdb97530eca8642002468acf13579b59⟩ := by decide +kernel
/-- V12: the largest value with top bit 0. -/
theorem test_dbl_shifts :
    lastResponse (exec (.dbl 0x7fffffffffffffffffffffffffffffff) State.reset) =
      some ⟨0x00000000, some 0xfffffffffffffffffffffffffffffffe⟩ := by decide +kernel
/-- S1, V50: FG's known-answer test. -/
theorem test_hash_known_answer :
    lastResponse (exec (.hash 0 0 0) loadedK0) = some ⟨0x00010000, some 0x2e2b34ca59fa4c883b2c8aefd44be966⟩ := by
  decide +kernel
/-- V55: tweak and reduction. -/
theorem test_hash_tweak :
    lastResponse (exec (.hash 0 0x0123456789abcdeffedcba9876543210 0xfedcba98765432100123456789abcdef) loadedK0) =
      some ⟨0x00010000, some 0x9c86be2f1cae53f44ccf591a5bed6eac⟩ := by decide +kernel
/-- V64: every operand non-trivial. -/
theorem test_hash2_values :
    lastResponse (exec (.hash2 1 0x000102030405060708090a0b0c0d0e0f 0x1cb693c50441de3bce611b4f2318d600
        0xfedcba98765432100123456789abcdef) loadedK1) =
      some ⟨0x00020000, some 0xa087cdd3b3b69c383524205217a71a68⟩ := by decide +kernel
/-- V75: STAT with contexts 0 and 2 valid. -/
theorem test_stat :
    lastResponse (exec .stat (coreWith [some zeroRk, none, some zeroRk, none])) = some ⟨0x00050000, none⟩ := by
  decide +kernel
/-- R140: on a halted core, after NO_KEY with context 1 valid. -/
theorem test_stat_halted : lastResponse (exec .stat haltedCore) = some ⟨0x00020007, none⟩ := by decide +kernel

/-! ### Faults and reset (V88 to V101) -/

/-- V88: BAD_CTX for the source, before VALID is looked at. -/
theorem test_badCtx_before_noKey : lastResponse (exec (.keycopy 1 9) loadedK1) = some ⟨0x00020005, none⟩ := by decide +kernel
/-- V89: ILLEGAL_CMD wins over BAD_CTX. -/
theorem test_illegalCmd_before_badCtx :
    lastResponse (step (State.reset.placeCommand ⟨0x00001094, [0]⟩)) = some ⟨0x00000003, none⟩ := by decide +kernel
/-- V96, V98: ENGINE, and NO_KEY before it. -/
theorem test_noKey_before_engine :
    lastResponse (exec (.keyload 0 0) (coreWith [none] none false)) = some ⟨0x00000009, none⟩ ∧
    lastResponse (exec (.enc 0 0) (coreWith [none] none false)) = some ⟨0x00000007, none⟩ := by decide +kernel
/-- V100: a halted core keeps its first cause, here against a reserved opcode. -/
theorem test_halted_keeps_cause :
    lastResponse (step { haltedCore with events := [.command ⟨0x0000000f, []⟩ true] }) = some ⟨0x00020007, none⟩ := by
  decide +kernel
/-- V101: reset empties the contexts and clears the fault. -/
theorem test_reset_event :
    nextView (fun t => (t.status, t.events, t.responses)) (step { haltedCore with events := [.reset] }) =
      some (0, [], []) := by decide +kernel
/-- R22: with `DEFAULT_RK` present, context 0 holds it. -/
theorem test_reset_default :
    nextView (fun t => (t.status, t.rk 0 == some zeroRk))
      (step { haltedCore with events := [.reset], defaultRk := some zeroRk }) = some (0x00010000, true) := by decide +kernel
/-- R58: the written form of a command and of a response. -/
theorem test_assembler :
    asm (.keycopy 3 1) = "KEYCOPY 3, 1" ∧ asm (.enc 2 0x87) = "ENC 2, 0x00000000000000000000000000000087" ∧
    asmResponse ⟨0x00020007, none⟩ = "-> FAULT 0x00020007" := by decide +kernel
/-- R59: `KEYLOADB 0, 06a2f9e079276a080434b661baeedcef`. -/
theorem test_keyloadB :
    keyloadB 0 #v[0x06, 0xa2, 0xf9, 0xe0, 0x79, 0x27, 0x6a, 0x08, 0x04, 0x34, 0xb6, 0x61, 0xba, 0xee, 0xdc, 0xef] =
      .keyload 0 keyK1 := by decide +kernel

/-! ### Witnesses: every statement with hypotheses has a state and operands that meet them, one for each clause -/

theorem witness_DecodeOfEncodeIsIdentity : (Instr.keycopy 15 15).wellFormed = true := by decide

theorem witness_EncodeOfDecodeIsIdentity : decode 0x000000f7 [1, 2, 3] = .ok (.hash2 15 1 2 3) := by decide

theorem witness_DecodedFieldsAreTheHeaderFields :
    decode 0x000000f1 [1] = .ok (.keyload 15 1) ∧ decode 0x00000ff2 [] = .ok (.keycopy 15 15) ∧
    decode 0x000000f3 [] = .ok (.keydrop 15) ∧ decode 0x000000f4 [1] = .ok (.enc 15 1) ∧
    decode 0x00000005 [1] = .ok (.dbl 1) ∧ decode 0x000000f6 [1, 2] = .ok (.hash 15 1 2) ∧
    decode 0x00000007 [1, 2, 3] = .ok (.hash2 0 1 2 3) := by decide

/-- One header for each of the five disjuncts, at a boundary of its range. -/
theorem witness_ReservedHeadersDecodeToNothing :
    (0x00000000 : Header).extractLsb' 0 4 = 0 ∧ 9 ≤ ((0x00000009 : Header).extractLsb' 0 4).toNat ∧
    (0x00001001 : Header).extractLsb' 12 20 ≠ 0 ∧
    ((0x00000101 : Header).extractLsb' 0 4 ≠ 2 ∧ (0x00000101 : Header).extractLsb' 8 4 ≠ 0) ∧
    ((0x00000018 : Header).extractLsb' 0 4 = 8 ∧ (0x00000018 : Header).extractLsb' 4 4 ≠ 0) := by decide

theorem witness_LengthIsReadFromTheOpcode : decode 0x00000007 [1, 2, 3] = .ok (.hash2 0 1 2 3) := by decide

/-- R57: malformed headers (a reserved bit, CTX in DBL, SRC in ENC, SRC in HASH2) have the length of their OPCODE, and so have OPCODE 0
and 9. -/
theorem test_lengthOfMalformedHeaders :
    [0x00001006, 0x00000015, 0x00000104, 0x00000107, 0x00000000, 0x00000009].map commandBits =
      [288, 160, 160, 416, 32, 32] := by decide

/-- A state whose next event is this command. -/
def pending (cmd : Command) : State := coreWith [some zeroRk, none, none, none] none true [.command cmd false, .reset]

theorem witness_StepRunsTheDecodedCommand :
    (pending ⟨0x00000014, [1]⟩).events = .command ⟨0x00000014, [1]⟩ false :: [.reset] ∧
    decode 0x00000014 [1] = .ok (.enc 1 1) := ⟨rfl, by decide⟩

theorem witness_MalformedCommandRaisesIllegalCmd :
    (pending ⟨0x00000000, []⟩).events = .command ⟨0x00000000, []⟩ false :: [.reset] ∧
    (pending ⟨0x00000000, []⟩).fault = none ∧ ∀ i, decode 0x00000000 [] ≠ .ok i := by
  refine ⟨rfl, rfl, fun i => ?_⟩
  rw [show decode 0x00000000 [] = .error .zeroOpcode by decide]
  exact fun h => Except.noConfusion rfl rfl (heq_of_eq h)

theorem witness_IdleCoreHoldsItsState : State.reset.events = [] := rfl

/-- The boundary NCTX = 1, with and without `DEFAULT_RK`. -/
theorem witness_ResetEventLeavesTheResetState :
    (coreWith [some zeroRk] (some .engine) true [.reset]).events = .reset :: [] ∧
    1 ≤ (coreWith [some zeroRk] (some .engine) true [.reset]).nctx ∧
    (let s := { coreWith [none] none true [.reset] with defaultRk := some zeroRk }
     s.events = .reset :: [] ∧ 1 ≤ s.nctx) := by decide

theorem witness_OneResponsePerCommand :
    (pending ⟨0x00000008, []⟩).events = .command ⟨0x00000008, []⟩ false :: [.reset] ∧
    decode 0x00000008 [] = .ok .stat ∧
    nextView (fun t => t.fault) (step (pending ⟨0x00000008, []⟩)) = some none := ⟨rfl, by decide, by decide +kernel⟩

/-- Context 4 is the first out of range and context 3 the last in range when NCTX = 4. -/
theorem witness_KeyloadConstructsAContext :
    oneKey.fault = none ∧ oneKey.nctx ≤ 4 ∧ 3 < oneKey.nctx ∧ oneKey.engineOk = true ∧
    (let s := coreWith [none, none, none, none] none false
     s.fault = none ∧ 3 < s.nctx ∧ s.engineOk = false) := by decide

theorem witness_KeycopyDuplicatesAContext :
    oneKey.fault = none ∧ oneKey.nctx ≤ 4 ∧ 3 < oneKey.nctx ∧ oneKey.valid 3 = false ∧ oneKey.rk 0 = some zeroRk := by
  decide +kernel

theorem witness_KeydropEmptiesAContext :
    oneKey.fault = none ∧ oneKey.nctx ≤ 4 ∧ 3 < oneKey.nctx ∧ oneKey.valid 3 = false ∧ oneKey.valid 0 = true := by
  decide +kernel

/-- The same states serve ENC, HASH and HASH2, whose hypotheses are the same. -/
theorem witness_EncReturnsTheCiphertext :
    oneKey.fault = none ∧ oneKey.nctx ≤ 4 ∧ 3 < oneKey.nctx ∧ oneKey.valid 3 = false ∧
    oneKey.rk 0 = some zeroRk ∧ oneKey.engineOk = true ∧
    (let s := coreWith [some zeroRk] none false
     s.fault = none ∧ s.valid 0 = true ∧ s.engineOk = false) := by decide +kernel

theorem witness_HashReturnsTheTweakHash : type_of% witness_EncReturnsTheCiphertext := witness_EncReturnsTheCiphertext

theorem witness_Hash2ReturnsTheTweakHash : type_of% witness_EncReturnsTheCiphertext := witness_EncReturnsTheCiphertext

/-- A live core: nothing else is asked, and `engine_ok` may be false. -/
theorem witness_DblReturnsTheDouble : (coreWith [] none false).fault = none := rfl

theorem witness_HaltedCoreIsFrozen :
    oneKey.fault = none ∧ (let s := { haltedCore with events := [.command ⟨0, []⟩ true] }
    s.fault = some .noKey ∧ s.events = .command ⟨0, []⟩ true :: []) := ⟨rfl, rfl, rfl⟩

theorem witness_FirstApplicableCauseIsReported :
    (∃ t, oneKey.fault = none ∧ exec (.enc 4 0) oneKey = .next t) ∧
    (pending ⟨0x00001094, [0]⟩).fault = none ∧
    (pending ⟨0x00001094, [0]⟩).events = .command ⟨0x00001094, [0]⟩ false :: [.reset] ∧
    decode 0x00001094 [0] = .error .reservedBits ∧ (∃ t, step (pending ⟨0x00001094, [0]⟩) = .next t) ∧
    (let s := { haltedCore with events := [.command ⟨0, []⟩ true] }
     s.fault = some .noKey ∧ s.events = .command ⟨0, []⟩ true :: [] ∧ ∃ t, step s = .next t) :=
  ⟨⟨_, rfl, rfl⟩, rfl, rfl, by decide, ⟨_, rfl⟩, rfl, rfl, _, rfl⟩

/-- ENC on an empty context: a command event, its next state, and the cause. -/
theorem witness_FaultsArePrecise :
    ∃ t, (pending ⟨0x00000014, [1]⟩).events = .command ⟨0x00000014, [1]⟩ false :: [.reset] ∧
      step (pending ⟨0x00000014, [1]⟩) = .next t ∧ t.fault = some .noKey :=
  ⟨_, rfl, rfl, by decide +kernel⟩

theorem witness_FaultsRecordOnlyTheirCause :
    (∃ t, oneKey.fault = none ∧ exec (.keyload 4 0) oneKey = .next t ∧ t.fault = some .badCtx) ∧
    (∃ t u, sameButOperands (.hash 1 0 0) (.hash 1 5 6) = true ∧ exec (.hash 1 0 0) oneKey = .next t ∧
      exec (.hash 1 5 6) oneKey = .next u) :=
  ⟨⟨_, rfl, rfl, by decide +kernel⟩, ⟨_, _, by decide, rfl, rfl⟩⟩

theorem witness_OnlyResetLeavesTheHaltedState :
    ∃ t, ({ haltedCore with events := [.reset] } : State).fault ≠ none ∧
      step { haltedCore with events := [.reset] } = .next t ∧ t.fault ≠ some .noKey :=
  ⟨_, by decide, rfl, by decide +kernel⟩

/-- A reset that empties context 0, a KEYDROP that does, and a reading command that completes. -/
theorem witness_OnlyKeyCommandsAndResetWriteContexts :
    (∃ t, step { oneKey with events := [.reset] } = .next t ∧ t.rk 0 ≠ oneKey.rk 0) ∧
    (∃ t, step { oneKey with events := [.command ⟨0x00000003, []⟩ true] } = .next t ∧ t.rk 0 ≠ oneKey.rk 0) ∧
    (∃ t, Instr.stat.opcode = .stat ∧ exec .stat oneKey = .next t ∧ t.fault = none) :=
  ⟨⟨_, rfl, by decide +kernel⟩, ⟨_, rfl, by decide +kernel⟩, ⟨_, rfl, rfl, by decide +kernel⟩⟩

theorem witness_ContextsNeverAlias :
    (∃ t, exec (.keydrop 0) oneKey = .next t ∧ writtenContext (.keydrop 0) ≠ some 1) ∧
    (∃ t u v, oneKey.fault = none ∧ exec (.keycopy 1 0) oneKey = .next t ∧ t.fault = none ∧ (1 : Nat) ≠ 0 ∧
      exec (.keydrop 1) t = .next u ∧ writtenContext (.keydrop 1) = some 1 ∧
      exec (.keydrop 0) t = .next v ∧ writtenContext (.keydrop 0) = some 0) :=
  ⟨⟨_, rfl, by decide⟩, ⟨_, _, _, rfl, rfl, by decide +kernel, by decide, rfl, by decide, rfl, by decide⟩⟩

theorem witness_ValidFollowsTheKeyCommands :
    (∃ t, exec (.keyload 3 0) oneKey = .next t ∧ t.fault = none) ∧
    (∃ t, exec (.keycopy 3 0) oneKey = .next t ∧ t.fault = none) ∧
    (∃ t, exec (.keydrop 0) oneKey = .next t ∧ t.fault = none) ∧
    (∃ t, step (coreWith [none, none] none true [.reset]) = .next t) ∧
    (∃ t, step { coreWith [none] none true [.reset] with defaultRk := some zeroRk } = .next t ∧ t.valid 0 = true) ∧
    (∃ t, oneKey.fault = none ∧ (∀ d ∈ usedContexts (.enc 3 0), d < oneKey.nctx) ∧
      neededContext (.enc 3 0) = some 3 ∧ oneKey.valid 3 = false ∧ exec (.enc 3 0) oneKey = .next t) :=
  ⟨⟨_, rfl, by decide +kernel⟩, ⟨_, rfl, by decide +kernel⟩, ⟨_, rfl, by decide +kernel⟩, ⟨_, rfl⟩,
    ⟨_, rfl, by decide +kernel⟩, ⟨_, rfl, by decide, rfl, by decide +kernel, rfl⟩⟩

/-- Two states that differ in what came before and what is pending. -/
theorem witness_EarlierResultsReachNoLaterCommand :
    let u : State := { oneKey with responses := [⟨0, some 5⟩], events := [.reset] }
    oneKey.ctx = u.ctx ∧ oneKey.fault = u.fault ∧ oneKey.engineOk = u.engineOk ∧
      ∃ t v, exec (.enc 0 1) oneKey = .next t ∧ exec (.enc 0 1) u = .next v :=
  ⟨rfl, rfl, rfl, _, _, rfl, rfl⟩

/-- Two states that differ in a context KEYCOPY 1, 0 does not read. -/
theorem witness_CommandsDependOnlyOnTheirContexts :
    let u : State := coreWith [some zeroRk, none, none, some zeroRk]
    oneKey.fault = none ∧ u.fault = none ∧ oneKey.nctx = u.nctx ∧ oneKey.engineOk = u.engineOk ∧
      (∀ c, readsContext c (.keycopy 1 0) = true → oneKey.rk c = u.rk c) ∧
      ∃ t v, exec (.keycopy 1 0) oneKey = .next t ∧ exec (.keycopy 1 0) u = .next v ∧ t.fault = none ∧
        writtenContext (.keycopy 1 0) = some 1 := by
  refine ⟨rfl, rfl, rfl, rfl, fun c hc => ?_, _, _, rfl, rfl, by decide +kernel, rfl⟩
  obtain rfl : 0 = c := by simpa [readsContext] using hc
  rfl

/-- Both ends of the range of NCTX. -/
theorem witness_StepsKeepTheParameters :
    (∃ t, step (coreWith [none]) = .next t ∧ (coreWith [none]).nctxInRange) ∧
    (∃ t, step (coreWith (List.replicate 16 none)) = .next t ∧ (coreWith (List.replicate 16 none)).nctxInRange) :=
  ⟨⟨_, rfl, by unfold State.nctxInRange; decide⟩, ⟨_, rfl, by unfold State.nctxInRange; decide⟩⟩

theorem witness_StepsKeepSchedulesDerived :
    ∃ t, ({ State.reset with events := [.command ⟨1, [0]⟩ true] } : State).schedulesDerived ∧
      step { State.reset with events := [.command ⟨1, [0]⟩ true] } = .next t := by
  refine ⟨_, fun c rk h => ?_, rfl⟩
  have : State.reset.rk c = none := by
    rw [State.rk, State.reset, readContext_resetContexts]; split <;> rfl
  exact absurd (this.symm.trans h) (by simp)

theorem witness_DutifulSequencesNeverFault :
    State.reset.fault = none ∧ respectsDuties State.reset.nctx State.reset.valid
      [.dbl 1, .keyload 3 5, .keycopy 0 3, .enc 0 1, .keydrop 3, .hash2 0 1 2 3, .stat] := by
  refine ⟨rfl, ?_⟩
  simp only [respectsDuties]
  decide +kernel

/-- Two commands, in two orders. -/
theorem witness_ReadingCommandsPermute :
    oneKey.fault = none ∧ (∀ i ∈ [Instr.enc 0 1, Instr.stat], readOnly i = true) ∧
      (∀ i ∈ [Instr.enc 0 1, Instr.stat], firstCause i oneKey = none) ∧
      [Instr.stat, Instr.enc 0 1].Perm [Instr.enc 0 1, Instr.stat] :=
  ⟨rfl, by decide, by decide +kernel, List.Perm.swap _ _ _⟩

/-- KEYLOAD 1 and DBL on a live core: neither writes a context the other reads or writes, and both complete in either order. -/
theorem witness_DisjointCommandsCommute :
    ∃ t1 t2 u1 u2, oneKey.fault = none ∧
      (∀ c, writtenContext (.keyload 1 0) = some c →
        readsContext c (.dbl 1) = false ∧ writtenContext (.dbl 1) ≠ some c) ∧
      (∀ c, writtenContext (.dbl 1) = some c → readsContext c (.keyload 1 0) = false) ∧
      exec (.keyload 1 0) oneKey = .next t1 ∧ exec (.dbl 1) t1 = .next t2 ∧ exec (.dbl 1) oneKey = .next u1 ∧
      exec (.keyload 1 0) u1 = .next u2 ∧ t2.fault = none ∧ u2.fault = none :=
  ⟨_, _, _, _, rfl, fun _ _ => ⟨rfl, by simp [writtenContext]⟩, fun _ h => by simp [writtenContext] at h,
    rfl, rfl, rfl, rfl, by decide +kernel, by decide +kernel⟩

/-- The same with KEYLOAD 0 on the context already loaded: neither command changes a VALID bit. -/
theorem witness_DisjointCommandsCommute_validKept :
    ∃ t1 t2 u1 u2, exec (.keyload 0 0) oneKey = .next t1 ∧ exec (.dbl 1) t1 = .next t2 ∧
      exec (.dbl 1) oneKey = .next u1 ∧ exec (.keyload 0 0) u1 = .next u2 ∧ t2.fault = none ∧ u2.fault = none ∧
      (∀ c, writtenContext (.dbl 1) = some c → u1.valid c = oneKey.valid c) ∧
      (∀ c, writtenContext (.keyload 0 0) = some c → t1.valid c = oneKey.valid c) :=
  ⟨_, _, _, _, rfl, rfl, rfl, rfl, by decide +kernel, by decide +kernel, fun _ h => by simp [writtenContext] at h,
    fun c h => by obtain rfl : 0 = c := by simpa [writtenContext] using h
                  decide +kernel⟩

theorem witness_DisjointCommandsGiveTheSameResponses : type_of% witness_DisjointCommandsCommute :=
  witness_DisjointCommandsCommute

/-- P4 row 2 and P5 row 1: the header of DBL after `KEYLOAD 1` from reset, and at reset. -/
theorem test_headerOfDblShowsValid :
    (∃ t, exec (.keyload 1 0) State.reset = .next t ∧
      (lastResponse (exec (.dbl 0x80000000000000000000000000000000) t)).map (·.status) = some 0x00020000) ∧
    (lastResponse (exec (.dbl 0x40000000000000000000000000000000) State.reset)).map (·.status) = some 0x00000000 :=
  ⟨⟨_, rfl, by decide +kernel⟩, by decide +kernel⟩

/-- ENC on a loaded context, then ENC on an empty one with a loaded one to copy from. -/
theorem witness_KeyCommandsDoNotCommuteWithUsers :
    oneKey.fault = none ∧ oneKey.engineOk = true ∧ (∀ d ∈ usedContexts (.enc 0 1), d < oneKey.nctx) ∧
      neededContext (.enc 0 1) = some 0 ∧ oneKey.valid 0 = true ∧
      (∀ d ∈ usedContexts (.enc 3 1), d < oneKey.nctx) ∧ neededContext (.enc 3 1) = some 3 ∧ oneKey.valid 3 = false := by
  decide +kernel

theorem witness_EncAfterKeyloadIsDeterministic :
    ∃ t u, oneKey.fault = none ∧ 1 < oneKey.nctx ∧ oneKey.engineOk = true ∧
      exec (.keyload 1 7) oneKey = .next t ∧ (∀ i ∈ [Instr.keydrop 0, Instr.dbl 5], writtenContext i ≠ some 1) ∧
      execAll [.keydrop 0, .dbl 5] t = .next u ∧ u.fault = none :=
  ⟨_, _, rfl, by decide, rfl, rfl, by decide, rfl, by decide +kernel⟩

theorem witness_ByteTypedFormsAgree : fromBytes (.replicate 16 0x11) = 0x11111111111111111111111111111111 ∧
    oneKey.fault = none ∧ oneKey.rk 0 = some zeroRk ∧ oneKey.engineOk = true :=
  ⟨by decide +kernel, rfl, rfl, rfl⟩

/-- A word at each end of the two ranges of the recurrence. -/
theorem witness_KeyExpansionRecurrence : (4 ≤ 5 ∧ 43 < 44 ∧ 5 % 4 ≠ 0 ∧ 43 % 4 ≠ 0) ∧ (4 ≤ 4 ∧ 40 < 44 ∧ 4 % 4 = 0 ∧ 40 % 4 = 0) := by
  decide

theorem witness_SboxIsTheAffineInverse : gmul 0x53 0xca = 1 ∧ (0x01 : Byte) ≠ 0 := by decide

/-- Bits at both ends of each clause, and a value for each case of the shift form. -/
theorem witness_DoubleBitByBit :
    (1 ≤ 3 ∧ 127 ≤ 127 ∧ (3 ≠ 1 ∧ 3 ≠ 2 ∧ 3 ≠ 7) ∧ (127 ≠ 1 ∧ 127 ≠ 2 ∧ 127 ≠ 7)) ∧
    (0x7fffffffffffffffffffffffffffffff : Block).getLsbD 127 = false ∧
    (0x80000000000000000000000000000000 : Block).getLsbD 127 = true := by decide

theorem witness_Hash2IsHashOfTheDoubledXor : oneKey.fault = none := rfl

theorem witness_EncodingFitsRow : (Instr.keycopy 15 0).wellFormed = true := by decide

end Sys2Proof.Tests
end

section
/-! PROOFS. What a step and the execution of a command can do, as inversion lemmas, and the parameters of spec/00_scope.md R7
that no step changes. -/

namespace Sys2Proof.Machine

/-! ### Inversion: what a next state can be -/

/-- The three ways a command is executed (R150): the core was halted, the command faults, or it has its effect and responds. -/
theorem exec_cases {i : Instr} {s t : State} (h : exec i s = .next t) :
    (∃ k, s.fault = some k ∧ t = s.respond) ∨
    (∃ k, s.fault = none ∧ firstCause i s = some k ∧ t = s.raiseFault k) ∨
    (s.fault = none ∧ firstCause i s = none ∧ t = (commandEffect s i).deliver (resultBlock s i)) := by
  rcases hf : s.fault with _ | k
  · rw [exec_live i hf] at h
    rcases hc : firstCause i s with _ | k <;> rw [hc] at h <;> cases h
    · exact .inr (.inr ⟨rfl, rfl, rfl⟩)
    · exact .inr (.inl ⟨k, rfl, rfl, rfl⟩)
  · rw [exec_halted i hf] at h
    cases h
    exact .inl ⟨k, rfl, rfl⟩

/-- The four kinds of step (R187): idle, a reset, a malformed command, and a command that decodes and is executed. -/
theorem step_cases {s t : State} (h : step s = .next t) :
    (s.events = [] ∧ t = s) ∨
    (∃ rest, s.events = .reset :: rest ∧ t = { s.resetCore with events := rest }) ∨
    (∃ cmd ok rest e, s.events = .command cmd ok :: rest ∧ decode cmd.header cmd.ops = .error e ∧
      t = (s.accept rest ok).rejectMalformed) ∨
    (∃ cmd ok rest i, s.events = .command cmd ok :: rest ∧ decode cmd.header cmd.ops = .ok i ∧
      exec i (s.accept rest ok) = .next t) := by
  rw [step] at h
  rcases hev : s.events with _ | ⟨_ | _, rest⟩
  case nil =>
    rw [State.takeEvent_idle hev] at h
    cases h
    exact .inl ⟨rfl, rfl⟩
  case cons.command cmd ok =>
    rcases hd : decode cmd.header cmd.ops with e | i
    · rw [State.takeEvent_malformed hev hd] at h
      cases h
      exact .inr (.inr (.inl ⟨cmd, ok, rest, e, rfl, hd, rfl⟩))
    · rw [State.takeEvent_decoded hev hd] at h
      exact .inr (.inr (.inr ⟨cmd, ok, rest, i, rfl, hd, h⟩))
  case cons.reset =>
    rw [State.takeEvent_reset hev] at h
    cases h
    exact .inr (.inl ⟨rest, rfl, rfl⟩)

/-! ### The parameters of R7 through the operations -/

@[simp] theorem commandEffect_nctx (s : State) (i : Instr) : (commandEffect s i).nctx = s.nctx := by
  cases i <;> simp [commandEffect]

@[simp] theorem commandEffect_defaultRk (s : State) (i : Instr) : (commandEffect s i).defaultRk = s.defaultRk := by
  cases i <;> simp [commandEffect]

@[simp] theorem State.rejectMalformed_nctx (s : State) : s.rejectMalformed.nctx = s.nctx := by
  obtain ⟨-, h⟩ | ⟨_, -, h⟩ := s.unlessHalted_cases (s.raiseFault .illegalCmd) <;> simp [State.rejectMalformed, h]

@[simp] theorem State.rejectMalformed_defaultRk (s : State) : s.rejectMalformed.defaultRk = s.defaultRk := by
  obtain ⟨-, h⟩ | ⟨_, -, h⟩ := s.unlessHalted_cases (s.raiseFault .illegalCmd) <;> simp [State.rejectMalformed, h]

theorem exec_keeps_parameters {i : Instr} {s t : State} (h : exec i s = .next t) :
    t.nctx = s.nctx ∧ t.defaultRk = s.defaultRk := by
  obtain ⟨_, -, rfl⟩ | ⟨_, -, -, rfl⟩ | ⟨-, -, rfl⟩ := exec_cases h <;> simp

theorem step_keeps_parameters {s t : State} (h : step s = .next t) : t.nctx = s.nctx ∧ t.defaultRk = s.defaultRk := by
  obtain ⟨-, rfl⟩ | ⟨rest, -, rfl⟩ | ⟨_, _, _, _, -, -, rfl⟩ | ⟨_, _, _, _, -, -, hx⟩ := step_cases h
  · exact ⟨rfl, rfl⟩
  · exact ⟨s.resetCore_nctx, rfl⟩
  · simp
  · simpa using exec_keeps_parameters hx

theorem State.nctxInRange_congr {s t : State} (h : t.nctx = s.nctx) : t.nctxInRange ↔ s.nctxInRange := by
  rw [State.nctxInRange, State.nctxInRange, h]

/-- Settles O34: by the kinds of step, each of which keeps the length of the store and DEFAULT_RK. -/
theorem stepsKeepTheParameters : Obligations.StepsKeepTheParameters := by
  intro s t h
  obtain ⟨hn, hd⟩ := step_keeps_parameters h
  exact ⟨hn, hd, (State.nctxInRange_congr hn).mpr⟩

end Sys2Proof.Machine
end

section
/-! PROOFS. The contexts through the operations and the commands (spec/10_state.md R12 to R16, R20, R21): what a context holds after
a command, after a reset and after any step. -/

namespace Sys2Proof.Machine

/-! ### What a context holds after each operation -/

theorem State.rk_setRk (s : State) (c d : Nat) (v : Option Schedule) :
    (s.setRk c v).rk d = if d = c ∧ c < s.nctx then v else s.rk d := by
  split_ifs with h
  · obtain ⟨rfl, hc⟩ := h
    exact State.rk_setRk_same hc v
  · by_cases hd : d = c
    · have hc : s.ctx.length ≤ c := not_lt.mp fun hc => h ⟨hd, hc⟩
      rw [State.setRk, writeContext, List.set_eq_of_length_le hc]
    · exact State.rk_setRk_other s hd v

@[simp] theorem State.rejectMalformed_ctx (s : State) : s.rejectMalformed.ctx = s.ctx := by
  obtain ⟨-, h⟩ | ⟨_, -, h⟩ := s.unlessHalted_cases (s.raiseFault .illegalCmd) <;> simp [State.rejectMalformed, h]

@[simp] theorem State.rejectMalformed_rk (s : State) (c : Nat) : s.rejectMalformed.rk c = s.rk c := by
  rw [State.rk, State.rk, s.rejectMalformed_ctx]

theorem step_reset {s : State} {rest : List Event} (h : s.events = .reset :: rest) :
    step s = .next { s.resetCore with events := rest } :=
  State.takeEvent_reset h exec

theorem rk_after_reset (s : State) (rest : List Event) (c : Nat) :
    ({ s.resetCore with events := rest } : State).rk c = if c = 0 ∧ 0 < s.nctx then s.defaultRk else none :=
  readContext_resetContexts s.nctx c s.defaultRk

theorem State.reset_rk (c : Nat) : State.reset.rk c = none :=
  (readContext_resetContexts Config.refNctx c Config.refDefaultRk).trans (ite_self none)

/-! ### Where the schedules held come from (R21) -/

/-- A command leaves in a context a schedule that some context held already or one it has expanded from a key. -/
theorem commandEffect_rk_source {s : State} {i : Instr} {c : Nat} {rk : Schedule}
    (h : (commandEffect s i).rk c = some rk) : (∃ d, s.rk d = some rk) ∨ ∃ key, rk = scheduleOf key := by
  cases i with
  | keyload c' key =>
    rw [commandEffect, State.rk_setRk] at h
    split_ifs at h
    · exact .inr ⟨key, (Option.some.inj h).symm⟩
    · exact .inl ⟨c, h⟩
  | keycopy d src =>
    rw [commandEffect, State.rk_setRk] at h
    split_ifs at h
    · exact .inl ⟨src, h⟩
    · exact .inl ⟨c, h⟩
  | keydrop c' =>
    rw [commandEffect, State.rk_setRk] at h
    split_ifs at h
    exact .inl ⟨c, h⟩
  | enc _ _ | dbl _ | hash _ _ _ | hash2 _ _ _ _ | stat => exact .inl ⟨c, h⟩

theorem exec_rk_source {i : Instr} {s t : State} {c : Nat} {rk : Schedule} (hx : exec i s = .next t)
    (h : t.rk c = some rk) : (∃ d, s.rk d = some rk) ∨ ∃ key, rk = scheduleOf key := by
  obtain ⟨_, -, rfl⟩ | ⟨_, -, -, rfl⟩ | ⟨-, -, rfl⟩ := exec_cases hx
  · exact .inl ⟨c, h⟩
  · exact .inl ⟨c, h⟩
  · exact commandEffect_rk_source h

/-- A schedule held after a step was held before it, or is expanded from a key, or is `DEFAULT_RK`. -/
theorem step_rk_source {s t : State} {c : Nat} {rk : Schedule} (hx : step s = .next t) (h : t.rk c = some rk) :
    (∃ d, s.rk d = some rk) ∨ (∃ key, rk = scheduleOf key) ∨ s.defaultRk = some rk := by
  obtain ⟨-, rfl⟩ | ⟨rest, -, rfl⟩ | ⟨_, _, _, _, -, -, rfl⟩ | ⟨_, _, _, _, -, -, hx⟩ := step_cases hx
  · exact .inl ⟨c, h⟩
  · rw [rk_after_reset] at h
    split_ifs at h
    exact .inr (.inr h)
  · exact .inl ⟨c, by simpa using h⟩
  · exact (exec_rk_source hx h).imp_right .inl

/-- Settles O35: a step brings no schedule into a context but one held already, one expanded from a key, or `DEFAULT_RK`. -/
theorem stepsKeepSchedulesDerived : Obligations.StepsKeepSchedulesDerived := by
  intro s t hs hx c rk h
  rw [(step_keeps_parameters hx).2]
  rcases step_rk_source hx h with ⟨d, hd⟩ | hnew
  · exact hs d rk hd
  · exact hnew

/-- Settles O36: at reset no context holds a schedule. -/
theorem resetMeetsTheInvariants : Obligations.ResetMeetsTheInvariants := by
  refine ⟨fun c rk h => ?_, by decide, by decide⟩
  rw [State.reset_rk] at h
  cases h

/-! ### Which commands write a context (R14, R15) -/

theorem writtenContext_eq_some_iff {i : Instr} {c : Nat} :
    writtenContext i = some c ↔ (∃ key, i = .keyload c key) ∨ (∃ src, i = .keycopy c src) ∨ i = .keydrop c := by
  cases i <;> simp [writtenContext]

/-- The effect of a command is confined to the context it writes (R15). -/
theorem commandEffect_rk_of_not_written (s : State) {i : Instr} {d : Nat} (h : writtenContext i ≠ some d) :
    (commandEffect s i).rk d = s.rk d := by
  have hne : ∀ c, writtenContext i = some c → d ≠ c := fun c hc hd => h (hd ▸ hc)
  cases i with
  | keyload c _ | keycopy c _ | keydrop c => exact State.rk_setRk_other s (hne c rfl) _
  | enc _ _ | dbl _ | hash _ _ _ | hash2 _ _ _ _ | stat => rfl

theorem writtenContext_eq_none_iff {i : Instr} :
    writtenContext i = none ↔
      i.opcode = .enc ∨ i.opcode = .dbl ∨ i.opcode = .hash ∨ i.opcode = .hash2 ∨ i.opcode = .stat := by
  cases i <;> simp [writtenContext, Instr.opcode]

theorem commandEffect_of_not_writing (s : State) {i : Instr} (h : writtenContext i = none) : commandEffect s i = s := by
  cases i with
  | keyload _ _ | keycopy _ _ | keydrop _ => cases h
  | enc _ _ | dbl _ | hash _ _ _ | hash2 _ _ _ _ | stat => rfl

theorem exec_rk_of_not_written {i : Instr} {s t : State} {d : Nat} (hx : exec i s = .next t)
    (h : writtenContext i ≠ some d) : t.rk d = s.rk d := by
  obtain ⟨_, -, rfl⟩ | ⟨_, -, -, rfl⟩ | ⟨-, -, rfl⟩ := exec_cases hx
  · rfl
  · rfl
  · exact commandEffect_rk_of_not_written s h

/-- A command that leaves the core live has completed: no fault applied, and its effect took place. -/
theorem exec_completed {i : Instr} {s t : State} (hx : exec i s = .next t) (ht : t.fault = none) :
    firstCause i s = none ∧ t = (commandEffect s i).deliver (resultBlock s i) := by
  obtain ⟨k, hk, rfl⟩ | ⟨_, -, -, rfl⟩ | ⟨-, hc, rfl⟩ := exec_cases hx
  · exact absurd (hk.symm.trans ht) (by simp)
  · cases ht
  · exact ⟨hc, rfl⟩

/-- Settles O29: by the kinds of step, of which only a reset and a command that names the context write it. -/
theorem onlyKeyCommandsAndResetWriteContexts : Obligations.OnlyKeyCommandsAndResetWriteContexts := by
  refine ⟨fun s t c hx hne => ?_, fun i s t hop hx ht => ?_⟩
  · obtain ⟨-, rfl⟩ | ⟨rest, hev, -⟩ | ⟨_, _, _, _, -, -, rfl⟩ | ⟨cmd, ok, rest, i, hev, hd, hx⟩ := step_cases hx
    · exact absurd rfl hne
    · exact .inl ⟨rest, hev⟩
    · exact absurd (by simp) hne
    · have hw : writtenContext i = some c := by
        by_contra hw
        exact hne (exec_rk_of_not_written hx hw :)
      exact .inr ⟨cmd, ok, rest, i, hev, hd, writtenContext_eq_some_iff.mp hw⟩
  · rw [(exec_completed hx ht).2, commandEffect_of_not_writing s (writtenContext_eq_none_iff.mpr hop)]
    rfl

/-! ### When a command does not fault (R150 steps 3 to 5) -/

theorem firstCause_eq_none_iff {i : Instr} {s : State} :
    firstCause i s = none ↔ (∀ c ∈ usedContexts i, c < s.nctx) ∧ (∀ c, neededContext i = some c → s.valid c = true) ∧
      (invokesEngine i = true → s.engineOk = true) := by
  have hctx : (usedContexts i).any (fun c => s.nctx ≤ c) = false ↔ ∀ c ∈ usedContexts i, c < s.nctx := by simp
  have hkey : (neededContext i).any (fun c => !s.valid c) = false ↔ ∀ c, neededContext i = some c → s.valid c = true := by
    cases neededContext i <;> simp
  have heng : (invokesEngine i && !s.engineOk) = false ↔ (invokesEngine i = true → s.engineOk = true) := by
    cases invokesEngine i <;> simp
  rw [← hctx, ← hkey, ← heng, firstCause]
  split_ifs <;> simp_all

theorem firstCause_eq_noKey {i : Instr} {s : State} {c : Nat} (hused : ∀ d ∈ usedContexts i, d < s.nctx)
    (hneed : neededContext i = some c) (hempty : s.valid c = false) : firstCause i s = some .noKey := by
  have hctx : (usedContexts i).any (fun d => s.nctx ≤ d) = false := by simpa using hused
  simp [firstCause, hctx, hneed, hempty]

/-! ### What the key commands leave in the context they name when they complete (R16) -/

theorem exec_keyload_rk {s t : State} {c : Nat} {key : Block} (hx : exec (.keyload c key) s = .next t)
    (ht : t.fault = none) : t.rk c = some (scheduleOf key) := by
  obtain ⟨hc, rfl⟩ := exec_completed hx ht
  obtain ⟨hused, -, -⟩ := firstCause_eq_none_iff.mp hc
  exact State.rk_setRk_same (hused c (by simp [usedContexts])) _

theorem exec_keycopy_rk {s t : State} {d src : Nat} (hx : exec (.keycopy d src) s = .next t) (ht : t.fault = none) :
    t.rk d = s.rk src ∧ s.valid src = true := by
  obtain ⟨hc, rfl⟩ := exec_completed hx ht
  obtain ⟨hused, hneed, -⟩ := firstCause_eq_none_iff.mp hc
  exact ⟨State.rk_setRk_same (hused d (by simp [usedContexts])) _, hneed src rfl⟩

theorem exec_keydrop_rk {s t : State} {c : Nat} (hx : exec (.keydrop c) s = .next t) (ht : t.fault = none) :
    t.rk c = none := by
  obtain ⟨hc, rfl⟩ := exec_completed hx ht
  obtain ⟨hused, -, -⟩ := firstCause_eq_none_iff.mp hc
  exact State.rk_setRk_same (hused c (by simp [usedContexts])) _

/-- Settles O30: a command leaves every context it does not write, and KEYCOPY leaves the contents and no link between them. -/
theorem contextsNeverAlias : Obligations.ContextsNeverAlias := by
  refine ⟨fun i s t d hx h => exec_rk_of_not_written hx h, fun d src s t _ hx ht => ?_⟩
  have hd : t.rk d = s.rk src := (exec_keycopy_rk hx ht).1
  have hsrc : t.rk src = s.rk src := by
    by_cases h : src = d
    · rw [h, hd, h]
    · exact exec_rk_of_not_written hx fun hw => h (Option.some.inj hw).symm
  refine ⟨hd, hsrc, fun i u hne hu => ⟨fun hw => ?_, fun hw => ?_⟩⟩
  · exact exec_rk_of_not_written hu (by simpa [hw] using hne)
  · exact exec_rk_of_not_written hu (by simpa [hw] using hne.symm)

/-- Settles O31: from what each key command and reset leave in the context, and from the order of the causes. -/
theorem validFollowsTheKeyCommands : Obligations.ValidFollowsTheKeyCommands := by
  refine ⟨fun s t c key hx ht => ?_, fun s t d src hx ht => ?_, fun s t c hx ht => ?_,
    fun s t rest c hev hx hv => ?_, fun i s t c hlive hused hneed hempty hx => ?_⟩
  · simp [State.valid, exec_keyload_rk hx ht]
  · obtain ⟨hrk, hv⟩ := exec_keycopy_rk hx ht
    rwa [State.valid, hrk]
  · simp [State.valid, exec_keydrop_rk hx ht]
  · rw [step_reset hev] at hx
    cases hx
    rw [State.valid, rk_after_reset] at hv
    split_ifs at hv with h
    · exact ⟨h.1, fun hn => by simp [hn] at hv⟩
    · simp at hv
  · rw [exec_live i hlive, firstCause_eq_noKey hused hneed hempty] at hx
    cases hx
    rfl

/-! ### What the next state and the response depend on (R20) -/

@[simp] theorem commandEffect_fault (s : State) (i : Instr) : (commandEffect s i).fault = s.fault := by
  cases i <;> rfl

@[simp] theorem commandEffect_responses (s : State) (i : Instr) : (commandEffect s i).responses = s.responses := by
  cases i <;> rfl

theorem State.rk_congr {s u : State} (hc : s.ctx = u.ctx) : s.rk = u.rk := by
  funext c
  rw [State.rk, State.rk, hc]

theorem firstCause_congr (i : Instr) {s u : State} (hc : s.ctx = u.ctx) (he : s.engineOk = u.engineOk) :
    firstCause i s = firstCause i u := by
  have hn : s.nctx = u.nctx := congrArg List.length hc
  have hv : s.valid = u.valid := by funext c; rw [State.valid, State.valid, State.rk_congr hc]
  rw [firstCause, firstCause, hn, hv, he]

theorem resultBlock_congr (i : Instr) {s u : State} (hc : s.ctx = u.ctx) : resultBlock s i = resultBlock u i := by
  cases i <;> simp [resultBlock, State.rk_congr hc]

theorem commandEffect_ctx_congr (i : Instr) {s u : State} (hc : s.ctx = u.ctx) :
    (commandEffect s i).ctx = (commandEffect u i).ctx := by
  cases i <;> simp [commandEffect, State.rk_congr hc, hc]

/-- Cores that agree on contexts and fault record still do after the same answer, and both give the same response. -/
theorem State.deliver_congr {s u : State} (hc : s.ctx = u.ctx) (hf : s.fault = u.fault) (result : Option Block) :
    (s.deliver result).ctx = (u.deliver result).ctx ∧ (s.deliver result).fault = (u.deliver result).fault ∧
      ∃ r, (s.deliver result).responses = s.responses ++ [r] ∧ (u.deliver result).responses = u.responses ++ [r] :=
  ⟨hc, hf, ⟨s.status, result⟩, rfl, by simp [State.status_congr hc hf]⟩

/-- Settles O32: both cores take the same branch of R150, and each branch reads contexts, fault record and `engine_ok` alone. -/
theorem earlierResultsReachNoLaterCommand : Obligations.EarlierResultsReachNoLaterCommand := by
  intro i s u t v hc hf he ht hv
  rcases hs : s.fault with _ | k
  · have hu : u.fault = none := hf ▸ hs
    rw [exec_live i hs] at ht
    rw [exec_live i hu, ← firstCause_congr i hc he, ← resultBlock_congr i hc] at hv
    rcases hk : firstCause i s with _ | k <;> rw [hk] at ht hv <;> cases ht <;> cases hv
    · have h := State.deliver_congr (commandEffect_ctx_congr i hc)
        (show (commandEffect s i).fault = (commandEffect u i).fault by simpa using hf) (resultBlock s i)
      rwa [commandEffect_responses, commandEffect_responses] at h
    · exact State.deliver_congr (s := s.halt k) (u := u.halt k) hc rfl none
  · rw [exec_halted i hs] at ht
    rw [exec_halted i (hf ▸ hs)] at hv
    cases ht
    cases hv
    exact State.deliver_congr hc hf none

end Sys2Proof.Machine
end

section
/-! PROOFS. STATUS field by field (spec/10_state.md R18) and the state after reset (R22). -/

namespace Sys2Proof.Machine

/-! ### The fields of STATUS -/

/-- STATUS bit by bit, by the field the bit lies in (R18). -/
theorem State.status_getLsbD (s : State) (i : Nat) :
    s.status.getLsbD i =
      if i < 1 then (BitVec.ofBool s.halted).getLsbD i
      else if i < 4 then s.causeField.getLsbD (i - 1)
      else if i < 16 then false
      else s.validField.getLsbD (i - 16) := by
  change BitVec.getLsbD (w := 16 + 12 + 3 + 1)
    (s.validField ++ (0 : BitVec 12) ++ s.causeField ++ BitVec.ofBool s.halted) i = _
  have hcause : i - 1 < 3 ↔ i < 4 := by omega
  have hreserved : i - (1 + 3) < 12 ↔ i < 16 := by omega
  simp only [BitVec.getLsbD_append, Nat.sub_sub, hcause, hreserved, BitVec.ofNat_eq_ofNat, BitVec.getLsbD_zero]

theorem State.status_halt_bit (s : State) : s.status.getLsbD 0 = s.halted := by
  rw [s.status_getLsbD]
  cases s.halted <;> rfl

theorem State.status_cause_bits (s : State) : s.status.extractLsb' 1 3 = s.causeField := by
  ext i hi
  simp [State.status_getLsbD, show 1 + i < 4 by omega, hi]

theorem State.status_reserved_bits (s : State) : s.status.extractLsb' 4 12 = 0 := by
  ext i hi
  simp [State.status_getLsbD, show 4 + i < 16 by omega]

theorem State.status_valid_bit (s : State) {c : Nat} (h : c < 16) : s.status.getLsbD (16 + c) = s.valid c := by
  simp [State.status_getLsbD, State.validField, h, show ¬ 16 + c < 4 by omega]

theorem State.valid_of_nctx_le {s : State} {c : Nat} (h : s.nctx ≤ c) : s.valid c = false := by
  rw [State.valid, State.rk, readContext_past_end h]
  rfl

/-- Settles O28: field by field; past NCTX a bit of STATUS is `VALID` of no context, or lies past bit 31. -/
theorem statusLayout : Obligations.StatusLayout := by
  refine fun s => ⟨?_, ?_, s.status_reserved_bits, fun c hc => s.status_valid_bit hc, fun c hc => ?_⟩
  · rw [s.status_halt_bit, State.halted, Option.isSome_iff_ne_none]
  · rw [s.status_cause_bits, State.causeField]
    rcases s.fault with _ | _ | _ | _ | _ <;> rfl
  · rcases lt_or_ge c 16 with h | h
    · rw [s.status_valid_bit h, State.valid_of_nctx_le hc]
    · exact BitVec.getLsbD_of_ge _ _ (by omega)

/-! ### Reset -/

/-- STATUS of a live core in which no context but context 0 can be valid. -/
theorem State.status_of_valid_zero {s : State} (hf : s.fault = none) (hv : ∀ c, c ≠ 0 → s.valid c = false) :
    s.status = if s.valid 0 then 0x00010000 else 0x00000000 := by
  have hfield : s.validField = BitVec.ofFnLE fun c : Fin 16 => decide (c.val = 0) && s.valid 0 := by
    rw [State.validField]
    congr 1
    funext c
    by_cases hc : c.val = 0 <;> simp [hc, hv]
  rw [State.status, hfield, State.causeField, State.halted, hf]
  cases s.valid 0 <;> decide

theorem status_after_reset {s : State} (rest : List Event) (hn : 0 < s.nctx) :
    ({ s.resetCore with events := rest } : State).status = if s.defaultRk = none then 0x00000000 else 0x00010000 := by
  have hvalid : ∀ c, c ≠ 0 → ({ s.resetCore with events := rest } : State).valid c = false := fun c hc => by
    rw [State.valid, rk_after_reset, if_neg fun h => hc h.1]
    rfl
  have hzero : ({ s.resetCore with events := rest } : State).rk 0 = s.defaultRk := by
    rw [rk_after_reset, if_pos ⟨rfl, hn⟩]
  rw [State.status_of_valid_zero rfl hvalid, State.valid, hzero]
  cases s.defaultRk <;> simp

/-- Settles O11: contexts by reading the store after reset, STATUS from the one VALID bit that can be set. -/
theorem resetEventLeavesTheResetState : Obligations.ResetEventLeavesTheResetState := by
  intro s rest hev hn
  refine ⟨_, step_reset hev, rfl, rfl, s.resetCore_nctx, fun c hc => ?_, status_after_reset rest hn, rfl, rfl, rfl, rfl⟩
  rw [rk_after_reset]
  simp only [Nat.zero_lt_of_lt hc, and_true]

/-- Settles O12: every context of the reference configuration is empty at reset. -/
theorem resetStateOfTheReferenceConfiguration : Obligations.ResetStateOfTheReferenceConfiguration := by
  have hv : ∀ c, State.reset.valid c = false := fun c => by rw [State.valid, State.reset_rk]; rfl
  refine ⟨rfl, rfl, State.reset_rk, rfl, ?_, rfl, rfl, rfl⟩
  rw [State.status_of_valid_zero rfl fun c _ => hv c, hv]
  rfl

end Sys2Proof.Machine
end

section
/-! PROOFS. The byte order's conversions are inverse (spec/20_memory.md R30), the key expansion only appends words
(spec/40_aes_primitives.md R73), and the layout of a schedule (spec/10_state.md R13). -/

namespace Sys2Proof.Machine

/-! ### Bytes and values (R30) -/

/-- A little-endian sum of bytes is read back byte by byte. -/
theorem foldr_bytes_digit (l : List Byte) (i : Nat) (h : i < l.length) :
    l.foldr (fun x acc => x.toNat + 256 * acc) 0 / 2 ^ (8 * i) % 256 = l[i].toNat := by
  induction l generalizing i with
  | nil => simp at h
  | cons x xs ih =>
    have hx : x.toNat < 256 := x.isLt
    cases i with
    | zero => simp; omega
    | succ i =>
      have hpow : 2 ^ (8 * (i + 1)) = 256 * 2 ^ (8 * i) := by rw [Nat.mul_succ, pow_add, mul_comm]; rfl
      rw [List.foldr_cons, hpow, ← Nat.div_div_eq_div_mul, Nat.add_mul_div_left _ _ (by decide),
        Nat.div_eq_of_lt hx, zero_add]
      exact ih i (by simpa using h)

@[simp] theorem toBytes_fromBytes (b : Bytes16) : toBytes (fromBytes b) = b := by
  ext i hi : 1
  have hdigit := foldr_bytes_digit b.toList i (by simpa using hi)
  have hpow : (2 : Nat) ^ 128 = 2 ^ (8 * i) * 2 ^ (128 - 8 * i) := by rw [← pow_add]; congr 1; omega
  have hdvd : (2 : Nat) ^ 8 ∣ 2 ^ (128 - 8 * i) := pow_dvd_pow 2 (by omega)
  apply BitVec.eq_of_toNat_eq
  rw [getElem_toBytes, BitVec.extractLsb'_toNat, fromBytes, BitVec.toNat_ofNat, Nat.shiftRight_eq_div_pow, hpow,
    Nat.mod_mul_right_div_self, Nat.mod_mod_of_dvd _ hdvd]
  simpa using hdigit

theorem toBytes_injective : Function.Injective toBytes := by
  intro v w h
  refine BitVec.eq_of_getLsbD_eq fun k hk => ?_
  have hbyte : (toBytes v)[k / 8] = (toBytes w)[k / 8] := by rw [h]
  rw [getElem_toBytes, getElem_toBytes] at hbyte
  have hbit := congrArg (fun b : Byte => b.getLsbD (k % 8)) hbyte
  simpa [Nat.mod_lt, Nat.div_add_mod] using hbit

@[simp] theorem fromBytes_toBytes (v : Block) : fromBytes (toBytes v) = v :=
  toBytes_injective (toBytes_fromBytes (toBytes v))

/-! ### The key expansion starts with the key (R73) -/

theorem firstWords_prefix_keyWords (k : Bytes16) (n : Nat) : firstWords k <+: keyWords k n := by
  induction n with
  | zero => exact List.prefix_refl _
  | succ n ih => exact ih.trans (List.prefix_append _ _)

theorem wordAt_keyWords_of_lt (k : Bytes16) (n : Nat) {i : Nat} (h : i < 4) :
    wordAt (keyWords k n) i = .ofFn fun j : Fin 4 => k[4 * i + j.val] := by
  have hlen : i < (firstWords k).length := by simpa [firstWords] using h
  obtain ⟨ws, hws⟩ := firstWords_prefix_keyWords k n
  rw [wordAt, ← hws, List.getD_append _ _ _ _ hlen]
  simp [firstWords, h]

theorem getElem_keyExpand (k : Bytes16) (b : Nat) (h : b < 176) :
    (keyExpand k)[b] = (wordAt (keyWords k 40) (b / 4))[b % 4] := by
  simp [keyExpand]

theorem roundKey_zero_keyExpand (k : Bytes16) : roundKey (keyExpand k) 0 = k := by
  ext j hj : 1
  have hbyte : 4 * (j / 4) + j % 4 = j := Nat.div_add_mod j 4
  rw [getElem_roundKey]
  simp only [Fin.val_zero, Nat.mul_zero, Nat.zero_add]
  rw [getElem_keyExpand, wordAt_keyWords_of_lt k 40 (show j / 4 < 4 by omega), Vector.getElem_ofFn]
  simp only [hbyte]

/-! ### Schedules (R13) -/

theorem getElem_scheduleBytes (s : Schedule) (r : Fin 11) (j : Nat) (h : j < 16) :
    (scheduleBytes s)[16 * r.val + j] = (toBytes s[r])[j] := by
  have hr : (16 * r.val + j) / 16 = r.val := by omega
  have hj : (16 * r.val + j) % 16 = j := by omega
  simp [scheduleBytes, hr, hj]

theorem eq_of_roundKey_eq {w w' : Bytes176} (h : ∀ r, roundKey w r = roundKey w' r) : w = w' := by
  ext b hb : 1
  have hkey := congrArg (fun k : Bytes16 => k[b % 16]) (h ⟨b / 16, by omega⟩)
  simpa [getElem_roundKey, Nat.div_add_mod] using hkey

theorem roundKey_scheduleBytes (s : Schedule) (r : Fin 11) : roundKey (scheduleBytes s) r = toBytes s[r] := by
  ext j hj : 1
  rw [getElem_roundKey, getElem_scheduleBytes]

theorem getElem_scheduleOf (key : Block) (r : Fin 11) :
    (scheduleOf key)[r] = fromBytes (roundKey (keyExpand (toBytes key)) r) := by
  simp [scheduleOf]

/-- Settles O44: round key by round key, the byte order's conversions being inverse. -/
theorem scheduleLayout : Obligations.ScheduleLayout := by
  refine ⟨fun s r j => ?_, fun key => eq_of_roundKey_eq fun r => ?_, fun key => ?_⟩
  · rw [getElem_scheduleBytes s r j.val j.isLt, getElem_toBytes]
  · rw [roundKey_scheduleBytes, getElem_scheduleOf, toBytes_fromBytes]
  · exact (getElem_scheduleOf key 0).trans (by rw [roundKey_zero_keyExpand, fromBytes_toBytes])

end Sys2Proof.Machine
end

section
/-! PROOFS. Running a decoded command (spec/20_memory.md R38), what its outcome depends on (R37), and the permutation of reading
commands (R39). -/

namespace Sys2Proof.Machine

/-! ### Running a decoded command (R38, R150) -/

/-- Settles O8: the step takes the command from the port and runs what it decodes to. -/
theorem stepRunsTheDecodedCommand : Obligations.StepRunsTheDecodedCommand :=
  fun _ _ _ _ _ hev hd => State.takeEvent_decoded hev hd exec

theorem exec_of_no_cause {i : Instr} {s : State} (hf : s.fault = none) (hc : firstCause i s = none) :
    exec i s = .next ((commandEffect s i).deliver (resultBlock s i)) := by
  rw [exec_live i hf, hc]

theorem exec_of_cause {i : Instr} {s : State} {k : Cause} (hf : s.fault = none) (hc : firstCause i s = some k) :
    exec i s = .next (faulted s k) := by
  rw [exec_live i hf, hc]
  rfl

theorem exists_exec_completed {i : Instr} {s : State} (hf : s.fault = none) (hc : firstCause i s = none) :
    ∃ t, exec i s = .next t ∧ t.fault = none :=
  ⟨_, exec_of_no_cause hf hc, by simp [hf]⟩

/-- A command that leaves the core live found it live. -/
theorem live_before_exec {i : Instr} {s t : State} (hx : exec i s = .next t) (ht : t.fault = none) : s.fault = none := by
  obtain ⟨-, rfl⟩ := exec_completed hx ht
  simpa using ht

theorem exec_completed_rk {i : Instr} {s t : State} (hx : exec i s = .next t) (ht : t.fault = none) (c : Nat) :
    t.rk c = (commandEffect s i).rk c := by
  obtain ⟨-, rfl⟩ := exec_completed hx ht
  rfl

/-! ### The ports (log entries 1, 3) -/

@[simp] theorem commandEffect_events (s : State) (i : Instr) : (commandEffect s i).events = s.events := by
  cases i <;> rfl

@[simp] theorem commandEffect_engineOk (s : State) (i : Instr) : (commandEffect s i).engineOk = s.engineOk := by
  cases i <;> rfl

theorem exec_keeps_ports {i : Instr} {s t : State} (hx : exec i s = .next t) :
    t.events = s.events ∧ t.engineOk = s.engineOk := by
  obtain ⟨_, -, rfl⟩ | ⟨_, -, -, rfl⟩ | ⟨-, -, rfl⟩ := exec_cases hx <;> simp

/-! ### A command's outcome depends on the contexts it reads (R37) -/

theorem readsContext_of_needed {i : Instr} {c : Nat} (h : neededContext i = some c) : readsContext c i = true := by
  cases i <;> simp_all [neededContext, readsContext]

section AgreeingCores

variable {i : Instr} {s u : State} (hn : s.nctx = u.nctx) (hneed : ∀ c, neededContext i = some c → s.rk c = u.rk c)

include hneed

theorem resultBlock_congr_needed : resultBlock s i = resultBlock u i := by
  cases i with
  | enc c _ | hash c _ _ | hash2 c _ _ _ => simp [resultBlock, hneed c rfl]
  | keyload _ _ | keycopy _ _ | keydrop _ | dbl _ | stat => rfl

include hn

theorem firstCause_congr_needed (he : s.engineOk = u.engineOk) : firstCause i s = firstCause i u := by
  have hvalid : (neededContext i).any (fun c => !s.valid c) = (neededContext i).any fun c => !u.valid c := by
    rcases hc : neededContext i with _ | c
    · rfl
    · simp [State.valid, hneed c hc]
  rw [firstCause, firstCause, hn, hvalid, he]

/-- What a command leaves in the context it writes is the same on both cores; elsewhere it leaves their agreement as it was. -/
theorem commandEffect_rk_congr {d : Nat} (hd : writtenContext i ≠ some d → s.rk d = u.rk d) :
    (commandEffect s i).rk d = (commandEffect u i).rk d := by
  by_cases hw : writtenContext i = some d
  · rcases lt_or_ge d s.nctx with hlt | hge
    · have hlt' : d < u.nctx := hn ▸ hlt
      obtain ⟨key, rfl⟩ | ⟨src, rfl⟩ | rfl := writtenContext_eq_some_iff.mp hw
      · simp [commandEffect, State.rk_setRk, hlt, hlt']
      · simp [commandEffect, State.rk_setRk, hlt, hlt', hneed src rfl]
      · simp [commandEffect, State.rk_setRk, hlt, hlt']
    · have hs : (commandEffect s i).nctx ≤ d := by simpa using hge
      have hu : (commandEffect u i).nctx ≤ d := by simpa [← hn] using hge
      exact (readContext_past_end hs).trans (readContext_past_end hu).symm
  · rw [commandEffect_rk_of_not_written s hw, commandEffect_rk_of_not_written u hw, hd hw]

end AgreeingCores

/-- Settles O33: both cores take the same branch of R150, and the branch looks at the needed context alone. -/
theorem commandsDependOnlyOnTheirContexts : Obligations.CommandsDependOnlyOnTheirContexts := by
  intro i s u t v hs hu hn he hreads ht hv
  have hneed : ∀ c, neededContext i = some c → s.rk c = u.rk c := fun c hc => hreads c (readsContext_of_needed hc)
  have hcause := firstCause_congr_needed hn hneed he
  rcases hk : firstCause i s with _ | k
  · rw [exec_of_no_cause hs hk] at ht
    rw [exec_of_no_cause hu (hcause ▸ hk)] at hv
    cases ht
    cases hv
    refine ⟨by simp [hs, hu], by simp [resultBlock_congr_needed hneed], fun _ c hw => ?_⟩
    exact commandEffect_rk_congr hn hneed (d := c) fun hne => absurd hw hne
  · rw [exec_of_cause hs hk] at ht
    rw [exec_of_cause hu (hcause ▸ hk)] at hv
    cases ht
    cases hv
    refine ⟨rfl, by simp [faulted, answered], fun h => ?_⟩
    cases h

/-! ### Reading commands permute (R39) -/

/-- The response of a command that completes at `s`: STATUS after its effect, and its result (R56). -/
def completedResponse (s : State) (i : Instr) : Response := ⟨(commandEffect s i).status, resultBlock s i⟩

theorem exec_completed_responses {i : Instr} {s t : State} (hx : exec i s = .next t) (ht : t.fault = none) :
    t.responses = s.responses ++ [completedResponse s i] := by
  obtain ⟨-, rfl⟩ := exec_completed hx ht
  simp [completedResponse]

/-- Reading commands that do not fault leave `s` as it is, whatever responses it has given already. -/
theorem execAll_reading {s : State} (hf : s.fault = none) {is : List Instr}
    (hi : ∀ i ∈ is, writtenContext i = none ∧ firstCause i s = none) (rs : List Response) :
    execAll is { s with responses := rs } = .next { s with responses := rs ++ is.map (completedResponse s) } := by
  induction is generalizing rs with
  | nil => simp [execAll]
  | cons i is ih =>
    obtain ⟨hw, hc⟩ := hi i List.mem_cons_self
    have hx : exec i { s with responses := rs } = .next { s with responses := rs ++ [completedResponse s i] } := by
      have hresult : resultBlock { s with responses := rs } i = resultBlock s i := resultBlock_congr i rfl
      rw [exec_of_no_cause (s := { s with responses := rs }) hf ((firstCause_congr i rfl rfl).trans hc), hresult,
        completedResponse, commandEffect_of_not_writing _ hw, commandEffect_of_not_writing s hw]
      rfl
    simp only [execAll, hx, ih (fun j hj => hi j (List.mem_cons_of_mem i hj)), List.map_cons, List.append_assoc,
      List.singleton_append]

/-- Settles O38: each reading command leaves the state, so its response is the one it has at `s`, in any order. -/
theorem readingCommandsPermute : Obligations.ReadingCommandsPermute := by
  intro s is hf hread hcause
  refine ⟨completedResponse s, fun js hperm => execAll_reading hf (fun i hi => ?_) s.responses⟩
  have hmem : i ∈ is := hperm.mem_iff.mp hi
  exact ⟨Option.isNone_iff_eq_none.mp (hread i hmem), hcause i hmem⟩

end Sys2Proof.Machine
end

section
/-! PROOFS. The byte order as a weighted sum (spec/20_memory.md R30). -/

namespace Sys2Proof.Machine

/-- A little-endian fold of bytes is their sum at the weights `2 ^ (8 * i)`. -/
theorem foldr_bytes_eq_sum (l : List Byte) :
    l.foldr (fun x acc => x.toNat + 256 * acc) 0 = ∑ i : Fin l.length, 2 ^ (8 * i.val) * l[i].toNat := by
  induction l with
  | nil => rfl
  | cons x xs ih =>
    have hweight : ∀ k, 2 ^ (8 * (k + 1)) = 256 * 2 ^ (8 * k) := fun k => by rw [Nat.mul_succ, pow_add, mul_comm]; rfl
    rw [List.foldr_cons, ih, Finset.mul_sum]
    simp [Fin.sum_univ_succ, hweight, mul_assoc]

theorem foldr_bytes_lt (l : List Byte) : l.foldr (fun x acc => x.toNat + 256 * acc) 0 < 256 ^ l.length := by
  have h := Nat.ofDigits_lt_base_pow_length (b := 256) (l := l.map BitVec.toNat) (by decide)
    (List.forall_mem_map.mpr fun x _ => x.isLt)
  simpa [Nat.ofDigits_eq_foldr, List.foldr_map] using h

theorem toNat_fromBytes (b : Bytes16) : (fromBytes b).toNat = ∑ i : Fin 16, 2 ^ (8 * i.val) * (b[i]).toNat := by
  have hlt : b.toList.foldr (fun x acc => x.toNat + 256 * acc) 0 < 2 ^ 128 := by
    simpa using foldr_bytes_lt b.toList
  rw [fromBytes, BitVec.toNat_ofNat, Nat.mod_eq_of_lt hlt, foldr_bytes_eq_sum]
  exact Fintype.sum_equiv (finCongr b.length_toList) _ _ fun i => by simp

/-- Settles O43: the weighted sum does not overflow 128 bits, and the conversions are inverse. -/
theorem byteOrderIsLittleEndian : Obligations.ByteOrderIsLittleEndian :=
  ⟨fun v i => getElem_toBytes v i.val i.isLt, toNat_fromBytes, fromBytes_toBytes, toBytes_fromBytes⟩

end Sys2Proof.Machine
end

section
/-! PROOFS. How far two commands commute (spec/20_memory.md R39). -/

namespace Sys2Proof.Machine

/-! ### Disjoint commands (R39) -/

theorem State.ctx_eq_of_rk {s t : State} (hn : s.nctx = t.nctx) (h : ∀ c, s.rk c = t.rk c) : s.ctx = t.ctx := by
  refine List.ext_getElem hn fun c hs ht => ?_
  simpa [State.rk, readContext, hs, ht] using h c

theorem State.eq_of_ctx {s t : State} (hc : s.ctx = t.ctx) (hf : s.fault = t.fault) (hd : s.defaultRk = t.defaultRk)
    (hev : s.events = t.events) (he : s.engineOk = t.engineOk) : s = { t with responses := s.responses } := by
  cases s
  simp_all

/-- Two STATUS words with one fault record differ in VALID bits only (R18). -/
theorem State.valid_ne_of_status_bit_ne {s t : State} (hf : s.fault = t.fault) {b : Nat}
    (h : s.status.getLsbD b ≠ t.status.getLsbD b) : ∃ c, b = 16 + c ∧ s.valid c ≠ t.valid c := by
  have hlow : 16 ≤ b := by
    by_contra hb
    simp [State.status_getLsbD, State.halted, State.causeField, hf, show b < 16 by omega] at h
  have hhigh : b < 32 := by
    by_contra hb
    rw [BitVec.getLsbD_of_ge _ _ (not_lt.mp hb), BitVec.getLsbD_of_ge _ _ (not_lt.mp hb)] at h
    exact h rfl
  obtain ⟨c, rfl⟩ := Nat.exists_eq_add_of_le hlow
  rw [s.status_valid_bit (by omega), t.status_valid_bit (by omega)] at h
  exact ⟨c, rfl, h⟩

section Disjoint

variable {i j : Instr} {s t : State} (hreads : ∀ c, writtenContext j = some c → readsContext c i = false)
  (hx : exec j s = .next t)

include hreads hx

/-- A command finds in the context it needs what was there before a command that writes no context it reads. -/
theorem needed_rk_after_exec {c : Nat} (hc : neededContext i = some c) : s.rk c = t.rk c := by
  refine (exec_rk_of_not_written hx fun hw => ?_).symm
  simpa [readsContext_of_needed hc] using hreads c hw

theorem completedResponse_result_after_exec : (completedResponse s i).result = (completedResponse t i).result :=
  resultBlock_congr_needed fun _ => needed_rk_after_exec hreads hx

theorem commandEffect_rk_after_exec {d : Nat} (hd : writtenContext j = some d → writtenContext i = some d) :
    (commandEffect s i).rk d = (commandEffect t i).rk d :=
  commandEffect_rk_congr (exec_keeps_parameters hx).1.symm (fun _ => needed_rk_after_exec hreads hx) fun hi =>
    (exec_rk_of_not_written hx fun hw => hi (hd hw)).symm

/-- The headers differ in no bit but VALID of the context `j` writes (R18, R56). -/
theorem completedResponse_status_after_exec (hf : s.fault = t.fault) {b : Nat}
    (hb : (completedResponse s i).status.getLsbD b ≠ (completedResponse t i).status.getLsbD b) :
    ∃ c, writtenContext j = some c ∧ b = 16 + c ∧ (commandEffect s i).valid c ≠ (commandEffect t i).valid c := by
  obtain ⟨c, rfl, hvalid⟩ := State.valid_ne_of_status_bit_ne (by simpa using hf) hb
  refine ⟨c, ?_, rfl, hvalid⟩
  by_contra hw
  exact hvalid (by rw [State.valid, State.valid, commandEffect_rk_after_exec hreads hx fun h => absurd h hw])

theorem completedResponse_after_exec (hf : s.fault = t.fault)
    (hi : ∀ c, writtenContext j = some c → writtenContext i ≠ some c)
    (hkept : ∀ c, writtenContext j = some c → t.valid c = s.valid c) : completedResponse s i = completedResponse t i := by
  have hstatus : (completedResponse s i).status = (completedResponse t i).status := by
    refine BitVec.eq_of_getLsbD_eq fun b _ => ?_
    by_contra hb
    obtain ⟨c, hw, -, hvalid⟩ := completedResponse_status_after_exec hreads hx hf hb
    refine hvalid ?_
    rw [State.valid, State.valid, commandEffect_rk_of_not_written s (hi c hw), commandEffect_rk_of_not_written t (hi c hw)]
    exact (hkept c hw).symm
  rw [completedResponse, completedResponse, Response.mk.injEq]
  exact ⟨hstatus, completedResponse_result_after_exec hreads hx⟩

end Disjoint

theorem exec_twice_keeps {i j : Instr} {s t u : State} (hi : exec i s = .next t) (hj : exec j t = .next u) :
    u.nctx = s.nctx ∧ u.defaultRk = s.defaultRk ∧ u.events = s.events ∧ u.engineOk = s.engineOk := by
  obtain ⟨hn, hd⟩ := exec_keeps_parameters hi
  obtain ⟨hev, he⟩ := exec_keeps_ports hi
  rw [← hn, ← hd, ← hev, ← he]
  exact ⟨(exec_keeps_parameters hj).1, (exec_keeps_parameters hj).2, exec_keeps_ports hj⟩

/-- A context that `j` does not write holds after both commands what `i` leaves in it, in either order. -/
theorem rk_of_disjoint_of_not_written {i j : Instr} {s t1 t2 u1 u2 : State} {c : Nat}
    (hreads : ∀ c, writtenContext j = some c → readsContext c i = false)
    (hi : exec i s = .next t1) (hij : exec j t1 = .next t2) (hj : exec j s = .next u1) (hji : exec i u1 = .next u2)
    (ht : t1.fault = none) (hu : u2.fault = none) (hc : writtenContext j ≠ some c) : t2.rk c = u2.rk c :=
  calc t2.rk c = t1.rk c := exec_rk_of_not_written hij hc
    _ = (commandEffect s i).rk c := exec_completed_rk hi ht c
    _ = (commandEffect u1 i).rk c := commandEffect_rk_after_exec hreads hj fun h => absurd h hc
    _ = u2.rk c := (exec_completed_rk hji hu c).symm

/-- Settles O39: each command finds the contexts it reads as at `s`, and each context is written by one of them at most. -/
theorem disjointCommandsCommute : Obligations.DisjointCommandsCommute := by
  intro i j s t1 t2 u1 u2 hs hi_disj hj_reads hi hij hj hji ht2 hu2
  have ht1 : t1.fault = none := live_before_exec hij ht2
  have hu1 : u1.fault = none := live_before_exec hji hu2
  have hi_reads : ∀ c, writtenContext i = some c → readsContext c j = false := fun c hc => (hi_disj c hc).1
  have hi_not : ∀ c, writtenContext j = some c → writtenContext i ≠ some c := fun c hc hw => (hi_disj c hw).2 hc
  have hj_not : ∀ c, writtenContext i = some c → writtenContext j ≠ some c := fun c hc => (hi_disj c hc).2
  obtain ⟨htn, htd, htev, hte⟩ := exec_twice_keeps hi hij
  obtain ⟨hun, hud, huev, hue⟩ := exec_twice_keeps hj hji
  have hctx : t2.ctx = u2.ctx := by
    refine State.ctx_eq_of_rk (htn.trans hun.symm) fun c => ?_
    by_cases hc : writtenContext j = some c
    · exact (rk_of_disjoint_of_not_written hi_reads hj hji hi hij hu1 ht2 (hi_not c hc)).symm
    · exact rk_of_disjoint_of_not_written hj_reads hi hij hj hji ht1 hu2 hc
  have hstate : t2 = { u2 with responses := t2.responses } :=
    State.eq_of_ctx hctx (ht2.trans hu2.symm) (htd.trans hud.symm) (htev.trans huev.symm) (hte.trans hue.symm)
  have hfi : s.fault = u1.fault := hs.trans hu1.symm
  have hfj : s.fault = t1.fault := hs.trans ht1.symm
  refine ⟨completedResponse s i, completedResponse t1 j, completedResponse u1 i, completedResponse s j,
    exec_completed_responses hi ht1, ?_, exec_completed_responses hj hu1, ?_, hstate,
    completedResponse_result_after_exec hj_reads hj, (completedResponse_result_after_exec hi_reads hi).symm,
    fun b hb => ?_, fun b hb => ?_, completedResponse_after_exec hj_reads hj hfi hi_not,
    fun hkept => (completedResponse_after_exec hi_reads hi hfj hj_not hkept).symm⟩
  · simp [exec_completed_responses hij ht2, exec_completed_responses hi ht1]
  · simp [exec_completed_responses hji hu2, exec_completed_responses hj hu1]
  · obtain ⟨c, hc, hbit, -⟩ := completedResponse_status_after_exec hj_reads hj hfi hb
    exact ⟨c, hc, hbit⟩
  · obtain ⟨c, hc, hbit, -⟩ := completedResponse_status_after_exec hi_reads hi hfj hb.symm
    exact ⟨c, hc, hbit⟩

/-- Refutes O40: from reset, `DBL 1` answers with `VALID[1] = 1` after `KEYLOAD 1, 0` and with `VALID[1] = 0` before it. -/
theorem not_disjointCommandsGiveTheSameResponses : ¬ Obligations.DisjointCommandsGiveTheSameResponses := by
  intro h
  obtain ⟨t1, hload, ht1⟩ := exists_exec_completed (i := .keyload 1 0) (s := State.reset) rfl rfl
  obtain ⟨t2, hload_dbl, ht2⟩ := exists_exec_completed (i := .dbl 1) ht1 rfl
  obtain ⟨u1, hdbl, hu1⟩ := exists_exec_completed (i := .dbl 1) (s := State.reset) rfl rfl
  have hu1_cause : firstCause (.keyload 1 0) u1 = none := by
    obtain ⟨-, rfl⟩ := exec_completed hdbl hu1
    rfl
  obtain ⟨u2, hdbl_load, hu2⟩ := exists_exec_completed hu1 hu1_cause
  obtain ⟨-, hlast⟩ := h (.keyload 1 0) (.dbl 1) State.reset t1 t2 u1 u2 rfl
    (fun _ _ => ⟨rfl, nofun⟩) nofun hload hload_dbl hdbl hdbl_load ht2 hu2
  have hstatus : t1.status = State.reset.status := by
    rw [exec_completed_responses hload_dbl ht2, exec_completed_responses hdbl hu1, List.getLast?_concat,
      List.getLast?_concat] at hlast
    exact congrArg Response.status (Option.some.inj hlast)
  have hvalid : t1.valid 1 = State.reset.valid 1 := by
    rw [← t1.status_valid_bit (by decide), hstatus, State.reset.status_valid_bit (by decide)]
  rw [State.valid, State.valid, exec_keyload_rk hload ht1, State.reset_rk] at hvalid
  cases hvalid

/-! ### Commands that do not commute with the users of a context (R39) -/

theorem needed_mem_usedContexts {i : Instr} {c : Nat} (h : neededContext i = some c) : c ∈ usedContexts i := by
  cases i <;> simp_all [neededContext, usedContexts]

section Users

variable {i : Instr} {s : State} {c : Nat} (hused : ∀ d ∈ usedContexts i, d < s.nctx) (hneed : neededContext i = some c)

include hused hneed

theorem exec_of_needed_valid (hs : s.fault = none) (he : s.engineOk = true) (hv : s.valid c = true) :
    ∃ t, exec i s = .next t ∧ t.fault = none := by
  refine exists_exec_completed hs (firstCause_eq_none_iff.mpr ⟨hused, fun d hd => ?_, fun _ => he⟩)
  rwa [Option.some.inj (hd.symm.trans hneed)]

theorem exec_of_needed_empty (hs : s.fault = none) (hv : s.valid c = false) : exec i s = .next (faulted s .noKey) :=
  exec_of_cause hs (firstCause_eq_noKey hused hneed hv)

/-- After a command that has completed and left a schedule in `c`, a command that needs `c` completes. -/
theorem exec_after_filling {j : Instr} {t : State} (he : s.engineOk = true) (hj : exec j s = .next t)
    (ht : t.fault = none) (hv : t.valid c = true) : ∃ u, exec i t = .next u ∧ u.fault = none :=
  exec_of_needed_valid (by rwa [(exec_keeps_parameters hj).1]) hneed ht ((exec_keeps_ports hj).2.trans he) hv

end Users

/-- Settles O59: a key command on `c` changes the answer of one check of `i`, the one for a schedule in `c`. -/
theorem keyCommandsDoNotCommuteWithUsers : Obligations.KeyCommandsDoNotCommuteWithUsers := by
  intro s i c hs he hused hneed
  have hc : c < s.nctx := hused c (needed_mem_usedContexts hneed)
  refine ⟨fun hv => ?_, fun hv => ⟨exec_of_needed_empty hused hneed hs hv, fun key => ?_, fun src hsrc => ?_⟩⟩
  · obtain ⟨t, ht, htf⟩ := exec_of_needed_valid hused hneed hs he hv
    obtain ⟨u, hu, huf⟩ := exec_of_needed_valid (i := .keydrop c) (by simpa [usedContexts] using hc) rfl hs he hv
    have hempty : u.valid c = false := by rw [State.valid, exec_keydrop_rk hu huf]; rfl
    exact ⟨t, u, ht, htf, hu, exec_of_needed_empty (by rwa [(exec_keeps_parameters hu).1]) hneed huf hempty⟩
  · have hcause : firstCause (.keyload c key) s = none :=
      firstCause_eq_none_iff.mpr ⟨by simpa [usedContexts] using hc, nofun, fun _ => he⟩
    obtain ⟨t, ht, htf⟩ := exists_exec_completed hs hcause
    have hfilled : t.valid c = true := by rw [State.valid, exec_keyload_rk ht htf]; rfl
    exact ⟨t, (exec_after_filling hused hneed he ht htf hfilled).imp fun u hu => ⟨ht, hu⟩⟩
  · obtain ⟨rk, hrk⟩ := Option.isSome_iff_exists.mp hsrc
    have hsrc_lt : src < s.nctx := State.lt_nctx_of_rk hrk
    obtain ⟨t, ht, htf⟩ := exec_of_needed_valid (i := .keycopy c src) (by simp [usedContexts, hc, hsrc_lt]) rfl hs he hsrc
    have hfilled : t.valid c = true := by rw [State.valid, (exec_keycopy_rk ht htf).1]; exact hsrc
    exact ⟨t, (exec_after_filling hused hneed he ht htf hfilled).imp fun u hu => ⟨ht, hu⟩⟩

end Sys2Proof.Machine
end

section
/-! PROOFS. The decoder against the encoder and against the table (spec/30_encoding.md R50 to R58): the row a header fits, the fields
of a header, and what decodes. -/

namespace Sys2Proof

/-! ### The rows of the table (R55) -/

/-- A field that the row's mask covers holds what the row's match says. -/
theorem field_of_fits {r : Row} {h : Header} (hf : h &&& r.mask = r.matchBits) {start len : Nat}
    (hm : r.mask.extractLsb' start len = BitVec.allOnes len) :
    h.extractLsb' start len = r.matchBits.extractLsb' start len := by
  rw [← hf, BitVec.extractLsb'_and, hm, BitVec.and_allOnes]

/-- The row's mask covers the field and its match asks for 0 there. -/
abbrev Row.pinsToZero (r : Row) (start len : Nat) : Prop :=
  r.mask.extractLsb' start len = BitVec.allOnes len ∧ r.matchBits.extractLsb' start len = 0

theorem zero_of_fits {r : Row} {h : Header} (hf : h &&& r.mask = r.matchBits) {start len : Nat}
    (hz : r.pinsToZero start len) : h.extractLsb' start len = 0 :=
  (field_of_fits hf hz.1).trans hz.2

theorem opcodeField_of_fits {r : Row} (hr : r ∈ opcodeTable) {h : Header} (hf : h &&& r.mask = r.matchBits) :
    opcodeField h = opcodeField r.matchBits :=
  field_of_fits hf ((by decide : ∀ r ∈ opcodeTable, r.mask.extractLsb' 0 4 = BitVec.allOnes 4) r hr)

/-- No header fits two rows, because each row has an OPCODE of its own. -/
theorem row_unique {r r' : Row} (hr : r ∈ opcodeTable) (hr' : r' ∈ opcodeTable) {h : Header}
    (hf : h &&& r.mask = r.matchBits) (hf' : h &&& r'.mask = r'.matchBits) : r = r' := by
  have hopcodes : ∀ r ∈ opcodeTable, ∀ r' ∈ opcodeTable, opcodeField r.matchBits = opcodeField r'.matchBits → r = r' := by
    decide
  exact hopcodes r hr r' hr' ((opcodeField_of_fits hr hf).symm.trans (opcodeField_of_fits hr' hf'))

theorem mem_and_fits_of_find_row {r : Row} {h : Header} (hr : opcodeTable.find? (fun r => r.fits h) = some r) :
    r ∈ opcodeTable ∧ h &&& r.mask = r.matchBits :=
  ⟨List.mem_of_find?_eq_some hr, eq_of_beq (List.find?_some (p := (Row.fits · h)) hr)⟩

theorem find_row_of_fits {r : Row} {h : Header} (hr : r ∈ opcodeTable) (hf : h &&& r.mask = r.matchBits) :
    opcodeTable.find? (fun r => r.fits h) = some r := by
  have hsome : (opcodeTable.find? fun r => r.fits h).isSome = true :=
    List.find?_isSome.mpr ⟨r, hr, beq_iff_eq.mpr hf⟩
  obtain ⟨r', hr'⟩ := Option.isSome_iff_exists.mp hsome
  obtain ⟨hmem', hf'⟩ := mem_and_fits_of_find_row hr'
  rw [hr', row_unique hmem' hr hf' hf]

/-! ### What decodes -/

@[simp] theorem assemble_opcode (op : Opcode) (h : Header) (ops : List Block) : (assemble op h ops).opcode = op := by
  cases op <;> rfl

/-- What decodes to `i` fits the row of the operation of `i`, and `i` is read from its fields and its blocks. -/
theorem decode_eq_ok_iff {h : Header} {ops : List Block} {i : Instr} :
    decode h ops = .ok i ↔ ∃ r ∈ opcodeTable, r.op = i.opcode ∧ h &&& r.mask = r.matchBits ∧ ops.length = r.nOps ∧
      assemble r.op h ops = i := by
  rw [decode]
  constructor
  · intro hd
    split at hd
    case h_1 => cases hd
    case h_2 r hr =>
      obtain ⟨hmem, hf⟩ := mem_and_fits_of_find_row hr
      split_ifs at hd with hlen
      cases hd
      exact ⟨r, hmem, (assemble_opcode ..).symm, hf, hlen, rfl⟩
  · rintro ⟨r, hmem, -, hf, hlen, rfl⟩
    rw [find_row_of_fits hmem hf]
    exact if_pos hlen

/-! ### Fields and operands -/

theorem ctxField_lt (h : Header) : ctxField h < 16 := (h.extractLsb' 4 4).isLt

theorem srcField_lt (h : Header) : srcField h < 16 := (h.extractLsb' 8 4).isLt

theorem ctxField_eq (h : Header) : ctxField h = h.toNat / 2 ^ 4 % 16 := by
  rw [ctxField, BitVec.extractLsb'_toNat, Nat.shiftRight_eq_div_pow]

theorem srcField_eq (h : Header) : srcField h = h.toNat / 2 ^ 8 % 16 := by
  rw [srcField, BitVec.extractLsb'_toNat, Nat.shiftRight_eq_div_pow]

theorem toNat_opcodeField (h : Header) : (opcodeField h).toNat = h.toNat % 16 := by
  rw [opcodeField, BitVec.extractLsb'_toNat, Nat.shiftRight_zero]

/-- A 4-bit field put back in its place: the header's own bits there. -/
theorem ofNat_field_shiftLeft (h : Header) (k : Nat) :
    BitVec.ofNat 32 (h.extractLsb' k 4).toNat <<< k = h &&& ((0xF : Header) <<< k) := by
  have hmask : ∀ j < 32, (0xF : Header).getLsbD j = decide (j < 4) := by decide
  rw [BitVec.ofNat_toNat]
  refine BitVec.eq_of_getLsbD_eq fun b hb => ?_
  by_cases hk : b < k
  · simp [hk]
  · have hbit : k + (b - k) = b := by omega
    have hlt : b - k < 32 := by omega
    rw [BitVec.getLsbD_and, BitVec.getLsbD_shiftLeft, BitVec.getLsbD_shiftLeft, hmask _ hlt]
    simp [hb, hk, hbit, hlt, Bool.and_comm]

/-- The masks of a CTX field and of the rows with CTX alone share out the header's bits. -/
theorem or_ctxBits_ctxField {h m : Header} (hm : h &&& 0xFFFFFF0F = m) : m ||| ctxBits (ctxField h) = h := by
  rw [ctxBits, ctxField, ofNat_field_shiftLeft, ← hm, ← BitVec.and_or_distrib_left]
  exact BitVec.and_allOnes

theorem or_ctxBits_or_srcBits {h m : Header} (hm : h &&& 0xFFFFF00F = m) :
    m ||| ctxBits (ctxField h) ||| srcBits (srcField h) = h := by
  rw [ctxBits, ctxField, srcBits, srcField, ofNat_field_shiftLeft, ofNat_field_shiftLeft, ← hm,
    ← BitVec.and_or_distrib_left, ← BitVec.and_or_distrib_left]
  exact BitVec.and_allOnes

theorem ctxField_ctxHeader (m c : Fin 16) : ctxField (BitVec.ofNat 32 m.val ||| ctxBits c.val) = c.val := by
  revert m c; decide

theorem fields_copyHeader (d c : Fin 16) :
    ctxField (0x00000002 ||| ctxBits d.val ||| srcBits c.val) = d.val ∧
      srcField (0x00000002 ||| ctxBits d.val ||| srcBits c.val) = c.val := by
  revert d c; decide

/-- A list of blocks is its operands in the order of their numbers (R50). -/
theorem map_operand_range {ops : List Block} {n : Nat} (h : ops.length = n) : (List.range n).map (operand ops) = ops := by
  subst h
  refine List.ext_getElem (by simp) fun k hk hk' => ?_
  simp [operand, hk']

/-! ### Decoding and encoding are inverse (R55, R58) -/

/-- The family of `EncodingFitsRow` over all commands. -/
theorem encodingFitsRow (i : Instr) : Laws.EncodingFitsRow.Statement i := by
  cases i with
  | keyload c key => exact Laws.EncodingFitsRow.keyload c key
  | keycopy d src => exact Laws.EncodingFitsRow.keycopy d src
  | keydrop c => exact Laws.EncodingFitsRow.keydrop c
  | enc c x => exact Laws.EncodingFitsRow.enc c x
  | dbl x => exact Laws.EncodingFitsRow.dbl x
  | hash c tweak x => exact Laws.EncodingFitsRow.hash c tweak x
  | hash2 c tweak x y => exact Laws.EncodingFitsRow.hash2 c tweak x y
  | stat => exact Laws.EncodingFitsRow.stat

theorem lt_of_fitsField {c : Nat} (h : fitsField c = true) : c < 16 := of_decide_eq_true h

theorem assemble_encode {i : Instr} (hi : i.wellFormed = true) : assemble i.opcode (encode i).header (encode i).ops = i := by
  cases i with
  | keyload c key => exact congrArg (Instr.keyload · key) (ctxField_ctxHeader 1 ⟨c, lt_of_fitsField hi⟩)
  | keycopy d src =>
    obtain ⟨hd, hs⟩ := Bool.and_eq_true_iff.mp hi
    obtain ⟨hctx, hsrc⟩ := fields_copyHeader ⟨d, lt_of_fitsField hd⟩ ⟨src, lt_of_fitsField hs⟩
    exact congrArg₂ Instr.keycopy hctx hsrc
  | keydrop c => exact congrArg Instr.keydrop (ctxField_ctxHeader 3 ⟨c, lt_of_fitsField hi⟩)
  | enc c x => exact congrArg (Instr.enc · x) (ctxField_ctxHeader 4 ⟨c, lt_of_fitsField hi⟩)
  | hash c tweak x => exact congrArg (Instr.hash · tweak x) (ctxField_ctxHeader 6 ⟨c, lt_of_fitsField hi⟩)
  | hash2 c tweak x y => exact congrArg (Instr.hash2 · tweak x y) (ctxField_ctxHeader 7 ⟨c, lt_of_fitsField hi⟩)
  | dbl _ | stat => rfl

/-- Settles O1: the encoding fits the row of the command's own operation, whose fields and blocks give the command back. -/
theorem decodeOfEncodeIsIdentity : Obligations.DecodeOfEncodeIsIdentity := by
  intro i hi
  obtain ⟨r, hr, hop, hf, hlen⟩ := encodingFitsRow i hi
  exact decode_eq_ok_iff.mpr ⟨r, hr, hop, hf, hlen, hop ▸ assemble_encode hi⟩

theorem assemble_wellFormed (op : Opcode) (h : Header) (ops : List Block) : (assemble op h ops).wellFormed = true := by
  cases op <;> simp [assemble, Instr.wellFormed, fitsField, ctxField_lt, srcField_lt]

/-- The fields and blocks of a command that fits its row make up the whole command (R55: no bit is ignored). -/
theorem encode_assemble {r : Row} (hr : r ∈ opcodeTable) {h : Header} {ops : List Block} (hf : h &&& r.mask = r.matchBits)
    (hlen : ops.length = r.nOps) : encode (assemble r.op h ops) = ⟨h, ops⟩ := by
  have hops := map_operand_range hlen
  simp only [opcodeTable, List.mem_cons, List.not_mem_nil, or_false] at hr
  obtain rfl | rfl | rfl | rfl | rfl | rfl | rfl | rfl := hr
  · exact congrArg₂ Command.mk (or_ctxBits_ctxField hf) hops
  · exact congrArg₂ Command.mk (or_ctxBits_or_srcBits hf) hops
  · exact congrArg₂ Command.mk (or_ctxBits_ctxField hf) hops
  · exact congrArg₂ Command.mk (or_ctxBits_ctxField hf) hops
  · exact congrArg₂ Command.mk (hf.symm.trans BitVec.and_allOnes) hops
  · exact congrArg₂ Command.mk (or_ctxBits_ctxField hf) hops
  · exact congrArg₂ Command.mk (or_ctxBits_ctxField hf) hops
  · exact congrArg₂ Command.mk (hf.symm.trans BitVec.and_allOnes) hops

/-- Settles O2: what decodes fits a row and is made up of its fields and blocks. -/
theorem encodeOfDecodeIsIdentity : Obligations.EncodeOfDecodeIsIdentity := by
  intro h ops i hd
  obtain ⟨r, hr, -, hf, hlen, rfl⟩ := decode_eq_ok_iff.mp hd
  exact ⟨assemble_wellFormed r.op h ops, encode_assemble hr hf hlen⟩

/-! ### What the table accepts and refuses -/

/-- Settles O3: a command decodes to a mnemonic by the mnemonic's own row, and every command of that row does. -/
theorem decodeAcceptsExactlyTheTable : Obligations.DecodeAcceptsExactlyTheTable := by
  intro h ops
  simp only [decode_eq_ok_iff]
  refine ⟨?_, ?_, ?_, ?_, ?_, ?_, ?_, ?_⟩ <;> simp [opcodeTable, Instr.opcode, assemble]

theorem ops_of_decode {h : Header} {ops : List Block} {i : Instr} (hd : decode h ops = .ok i) : ops = (encode i).ops := by
  rw [(encodeOfDecodeIsIdentity h ops i hd).2]

theorem assemble_of_decode {h : Header} {ops : List Block} {i : Instr} (hd : decode h ops = .ok i) :
    assemble i.opcode h ops = i := by
  obtain ⟨r, -, hop, -, -, hi⟩ := decode_eq_ok_iff.mp hd
  rwa [← hop]

/-- The first context a decoded command names is CTX (R54). -/
theorem firstContext_of_decode {h : Header} {ops : List Block} {i : Instr} (hd : decode h ops = .ok i) {c : Nat}
    (hc : (Machine.usedContexts i).head? = some c) : c = h.toNat / 2 ^ 4 % 16 := by
  rw [← assemble_of_decode hd] at hc
  rw [← ctxField_eq]
  generalize i.opcode = op at hc
  cases op <;> cases hc <;> rfl

/-- Settles O4: the contexts are read from the header's fields, and the command re-encodes to the blocks it came with. -/
theorem decodedFieldsAreTheHeaderFields : Obligations.DecodedFieldsAreTheHeaderFields := by
  refine fun h ops => ⟨fun c key hd => ⟨firstContext_of_decode hd rfl, ops_of_decode hd⟩, fun d src hd => ?_,
    fun c hd => ⟨firstContext_of_decode hd rfl, ops_of_decode hd⟩,
    fun c x hd => ⟨firstContext_of_decode hd rfl, ops_of_decode hd⟩, fun x hd => ops_of_decode hd,
    fun c tweak x hd => ⟨firstContext_of_decode hd rfl, ops_of_decode hd⟩,
    fun c tweak x y hd => ⟨firstContext_of_decode hd rfl, ops_of_decode hd⟩⟩
  obtain ⟨-, hsrc⟩ := Instr.keycopy.inj (assemble_of_decode hd)
  exact ⟨firstContext_of_decode hd rfl, hsrc.symm.trans (srcField_eq h), ops_of_decode hd⟩

/-- Settles O5: in every row the mask covers the field that the reserved header has wrong, and the match has it right. -/
theorem reservedHeadersDecodeToNothing : Obligations.ReservedHeadersDecodeToNothing := by
  intro h ops hreserved i hd
  obtain ⟨r, hr, -, hf, -, -⟩ := decode_eq_ok_iff.mp hd
  have hopcode : h.extractLsb' 0 4 = r.matchBits.extractLsb' 0 4 := opcodeField_of_fits hr hf
  rw [hopcode] at hreserved
  obtain hzero | hnine | hbits | ⟨hop, hsrc⟩ | ⟨hop, hctx⟩ := hreserved
  · exact (by decide : ∀ r ∈ opcodeTable, r.matchBits.extractLsb' 0 4 ≠ 0) r hr hzero
  · exact (by decide : ∀ r ∈ opcodeTable, ¬ 9 ≤ (r.matchBits.extractLsb' 0 4).toNat) r hr hnine
  · exact hbits (zero_of_fits hf ((by decide : ∀ r ∈ opcodeTable, r.pinsToZero 12 20) r hr))
  · exact hsrc (zero_of_fits hf
      ((by decide : ∀ r ∈ opcodeTable, r.matchBits.extractLsb' 0 4 ≠ 2 → r.pinsToZero 8 4) r hr hop))
  · exact hctx (zero_of_fits hf
      ((by decide : ∀ r ∈ opcodeTable, r.matchBits.extractLsb' 0 4 = 5 ∨ r.matchBits.extractLsb' 0 4 = 8 →
        r.pinsToZero 4 4) r hr hop))

/-! ### The length of a command (R57) -/

theorem operandCount_congr {h h' : Header} (ho : opcodeField h = opcodeField h') : operandCount h = operandCount h' := by
  rw [operandCount, operandCount, ho]

theorem operandCount_of_decode {h : Header} {ops : List Block} {i : Instr} (hd : decode h ops = .ok i) :
    operandCount h = ops.length := by
  obtain ⟨r, hr, -, hf, hlen, -⟩ := decode_eq_ok_iff.mp hd
  have hrow : ∀ r ∈ opcodeTable, operandCount r.matchBits = r.nOps := by decide
  rw [operandCount_congr (opcodeField_of_fits hr hf), hrow r hr, hlen]

/-- Settles O7: both sides look at the sixteen values of OPCODE alone; a command that decodes has the OPCODE of its row. -/
theorem lengthIsReadFromTheOpcode : Obligations.LengthIsReadFromTheOpcode := by
  refine ⟨fun h => ?_, fun h ops i hd => by rw [commandBits, operandCount_of_decode hd]⟩
  rw [← toNat_opcodeField, commandBits, operandCount]
  generalize opcodeField h = opcode
  revert opcode
  decide

/-- Settles O6: each word is the encoding of its command. -/
theorem specWordsDecode : Obligations.SpecWordsDecode := fun a b c =>
  ⟨decodeOfEncodeIsIdentity (.keyload 2 a) rfl, decodeOfEncodeIsIdentity (.keycopy 3 1) rfl,
    decodeOfEncodeIsIdentity (.keydrop 1) rfl, decodeOfEncodeIsIdentity (.enc 9 a) rfl,
    decodeOfEncodeIsIdentity (.dbl a) rfl, decodeOfEncodeIsIdentity (.hash 0 a b) rfl,
    decodeOfEncodeIsIdentity (.hash2 0 a b c) rfl, decodeOfEncodeIsIdentity .stat rfl⟩

end Sys2Proof
end

section
/-! PROOFS. The response to a command, well-formed or not (spec/30_encoding.md R55, R56; spec/60_exceptions.md R150), and the
byte-typed forms (spec/30_encoding.md R59). -/

namespace Sys2Proof.Machine

/-! ### A command's one response (R56) -/

theorem exists_exec_next (i : Instr) (s : State) : ∃ t, exec i s = .next t := by
  rcases h : s.fault with _ | k
  · exact ⟨_, exec_live i h⟩
  · exact ⟨_, exec_halted i h⟩

theorem step_malformed {s : State} {cmd : Command} {ok : Bool} {rest : List Event} {e : DecodeError}
    (hev : s.events = .command cmd ok :: rest) (he : decode cmd.header cmd.ops = .error e) :
    step s = .next (s.accept rest ok).rejectMalformed :=
  State.takeEvent_malformed hev he exec

theorem State.rejectMalformed_live {s : State} (h : s.fault = none) : s.rejectMalformed = faulted s .illegalCmd :=
  State.unlessHalted_live h _

/-- Settles O9: the core accepts the command, refuses it and, being live, takes the fault. -/
theorem malformedCommandRaisesIllegalCmd : Obligations.MalformedCommandRaisesIllegalCmd := by
  intro s cmd ok rest hev hlive hmal
  rcases hd : decode cmd.header cmd.ops with e | i
  · rw [step_malformed hev hd, State.rejectMalformed_live (s := s.accept rest ok) hlive]
    rfl
  · exact absurd hd (hmal i)

/-- A command that does not fault has a result exactly when it is ENC, DBL, HASH or HASH2. -/
theorem resultBlock_isSome_iff {i : Instr} {s : State} (hc : firstCause i s = none) :
    (resultBlock s i).isSome = true ↔
      i.opcode = .enc ∨ i.opcode = .dbl ∨ i.opcode = .hash ∨ i.opcode = .hash2 := by
  obtain ⟨-, hneed, -⟩ := firstCause_eq_none_iff.mp hc
  cases i with
  | enc c _ | hash c _ _ | hash2 c _ _ _ =>
    have hv : (s.rk c).isSome = true := hneed c rfl
    simp [resultBlock, Instr.opcode, hv]
  | keyload _ _ | keycopy _ _ | keydrop _ | dbl _ | stat => simp [resultBlock, Instr.opcode]

/-- The one response of a decoded command: without a block where the core is halted after it, else with the command's result. -/
theorem exec_response {i : Instr} {s t : State} (hx : exec i s = .next t) :
    (t.fault ≠ none ∧ t.responses = s.responses ++ [⟨t.status, none⟩]) ∨
      (t.fault = none ∧ firstCause i s = none ∧ t.responses = s.responses ++ [⟨t.status, resultBlock s i⟩]) := by
  obtain ⟨k, hk, rfl⟩ | ⟨k, -, -, rfl⟩ | ⟨hs, hc, rfl⟩ := exec_cases hx
  · exact .inl ⟨by simp [hk], rfl⟩
  · exact .inl ⟨by simp, rfl⟩
  · exact .inr ⟨by simp [hs], hc, by simp⟩

theorem State.rejectMalformed_response (s : State) :
    s.rejectMalformed.fault ≠ none ∧ s.rejectMalformed.events = s.events ∧
      s.rejectMalformed.responses = s.responses ++ [⟨s.rejectMalformed.status, none⟩] := by
  obtain ⟨-, h⟩ | ⟨k, hk, h⟩ := s.unlessHalted_cases (s.raiseFault .illegalCmd) <;> rw [State.rejectMalformed, h]
  · simp
  · simp [hk]

/-- Settles O14: a malformed command and a faulting one answer with no block on a core that is halted afterwards, and a command
that completes with its own result. -/
theorem oneResponsePerCommand : Obligations.OneResponsePerCommand := by
  intro s cmd ok rest hev
  rcases hd : decode cmd.header cmd.ops with e | i
  · obtain ⟨hfault, hevents, hresp⟩ := (s.accept rest ok).rejectMalformed_response
    exact ⟨_, ⟨_, none⟩, step_malformed hev hd, hevents, hresp, rfl, by simp [hfault], nofun⟩
  · obtain ⟨t, hx⟩ := exists_exec_next i (s.accept rest ok)
    have hstep : step s = .next t := (stepRunsTheDecodedCommand s cmd ok rest i hev hd).trans hx
    obtain ⟨hfault, hresp⟩ | ⟨hlive, hc, hresp⟩ := exec_response hx
    · exact ⟨t, _, hstep, (exec_keeps_ports hx).1, hresp, rfl, by simp [hfault], fun _ _ ht => absurd ht hfault⟩
    · refine ⟨t, _, hstep, (exec_keeps_ports hx).1, hresp, rfl, ?_, fun j hj _ => ?_⟩
      · simp [hlive, resultBlock_isSome_iff hc]
      · cases hj
        exact resultBlock_congr i rfl

/-! ### The byte-typed forms (R59, R100) -/

theorem toBytes_encryptValue (rk : Schedule) (b : Bytes16) : toBytes (encryptValue rk (fromBytes b)) = encryptBlock rk b := by
  rw [encryptValue, toBytes_fromBytes, toBytes_fromBytes, encryptBlock]

theorem exec_enc_completes {s : State} {c : Nat} {rk : Schedule} (hs : s.fault = none) (hrk : s.rk c = some rk)
    (he : s.engineOk = true) (x : Block) : exec (.enc c x) s = .next (s.deliver (some (encryptValue rk x))) := by
  have hc : firstCause (.enc c x) s = none := by
    refine firstCause_eq_none_iff.mpr ⟨fun d hd => ?_, fun d hd => ?_, fun _ => he⟩
    · obtain rfl : d = c := by simpa [usedContexts] using hd
      exact State.lt_nctx_of_rk hrk
    · obtain rfl : c = d := by simpa [neededContext] using hd
      simp [State.valid, hrk]
  rw [exec_of_no_cause hs hc]
  simp [commandEffect, resultBlock, hrk]

/-- Settles O42: both forms are abbreviations, and ENC answers with the cipher's output on the bytes of its operand. -/
theorem byteTypedFormsAgree : Obligations.ByteTypedFormsAgree := by
  rintro c b _ s rfl
  refine ⟨rfl, rfl, rfl, rfl, fun rk => toBytes_encryptValue rk b, fun rk hs hrk he => ?_⟩
  refine ⟨_, _, exec_enc_completes hs hrk he (fromBytes b), rfl, ?_⟩
  simp [encBResult, toBytes_encryptValue]

end Sys2Proof.Machine
end

section
/-! PROOFS. Multiplication in GF(2^8) and the S-box (spec/40_aes_primitives.md R74, R75, R77). A bit vector is read as a polynomial
over GF(2); a byte is then an element of the quotient by the modulus of R77, where `gmul` is the product of a commutative ring. -/

namespace Sys2Proof.Machine

open Polynomial

/-! ### Bit vectors as polynomials over GF(2) -/

/-- The polynomial over GF(2) whose coefficient of `x^i` is bit `i`. -/
noncomputable def bitPoly {n : Nat} (v : BitVec n) : (ZMod 2)[X] :=
  ∑ i : Fin n, if v.getLsbD i.val then X ^ i.val else 0

theorem coeff_ite_X_pow (b : Bool) (i k : Nat) :
    (if b then X ^ i else 0 : (ZMod 2)[X]).coeff k = if b ∧ k = i then 1 else 0 := by
  cases b <;> simp [coeff_X_pow]

theorem coeff_bitPoly {n : Nat} (v : BitVec n) (k : Nat) : (bitPoly v).coeff k = if v.getLsbD k then 1 else 0 := by
  rw [bitPoly, finsetSum_coeff, Finset.sum_congr rfl fun i _ => coeff_ite_X_pow _ i.val k]
  by_cases hk : k < n
  · rw [Finset.sum_eq_single ⟨k, hk⟩ (fun i _ hi => if_neg fun h => hi (Fin.ext h.2.symm)) (by simp)]
    simp
  · rw [BitVec.getLsbD_of_ge v k (by omega)]
    exact Finset.sum_eq_zero fun i _ => if_neg fun (h : _ ∧ k = i.val) => hk (h.2 ▸ i.isLt)

theorem bitPoly_injective {n : Nat} : Function.Injective (bitPoly (n := n)) := by
  intro v w h
  refine BitVec.eq_of_getLsbD_eq fun k _ => ?_
  have hcoeff := congrArg (fun p => p.coeff k) h
  simp only [coeff_bitPoly] at hcoeff
  cases hv : v.getLsbD k <;> cases hw : w.getLsbD k <;> simp [hv, hw] at hcoeff ⊢

theorem degree_bitPoly_lt {n : Nat} (v : BitVec n) : (bitPoly v).degree < n := by
  refine (degree_lt_iff_coeff_zero _ _).mpr fun k hk => ?_
  simp [coeff_bitPoly, BitVec.getLsbD_of_ge v k hk]

@[simp] theorem bitPoly_zero {n : Nat} : bitPoly (0 : BitVec n) = 0 := by
  ext k; simp [coeff_bitPoly]

/-- XOR of the bits is the sum of the polynomials. -/
theorem bitPoly_xor {n : Nat} (v w : BitVec n) : bitPoly (v ^^^ w) = bitPoly v + bitPoly w := by
  ext k
  rw [coeff_add, coeff_bitPoly, coeff_bitPoly, coeff_bitPoly, BitVec.getLsbD_xor]
  cases v.getLsbD k <;> cases w.getLsbD k <;> decide

/-- A shift left by one is multiplication by `x` without the bit that leaves at the top. -/
theorem bitPoly_shiftLeft_one {n : Nat} (v : BitVec (n + 1)) :
    bitPoly (v <<< 1) + (if v.getLsbD n then X ^ (n + 1) else 0) = X * bitPoly v := by
  ext k
  rw [coeff_add, coeff_ite_X_pow, coeff_bitPoly, BitVec.getLsbD_shiftLeft]
  cases k with
  | zero => simp
  | succ k =>
    rw [coeff_X_mul, coeff_bitPoly]
    obtain hk | rfl | hk := Nat.lt_trichotomy k n
    · simp [hk, hk.ne]
    · simp
    · simp [BitVec.getLsbD_of_ge v k hk, hk.ne', show ¬ k < n by omega]

/-! ### GF(2^8) (R77) -/

/-- The modulus of R77. -/
noncomputable def aesPoly : (ZMod 2)[X] := X ^ 8 + X ^ 4 + X ^ 3 + X + 1

theorem aesPoly_monic : aesPoly.Monic := by
  unfold aesPoly; monicity!

theorem degree_aesPoly : aesPoly.degree = 8 := by
  unfold aesPoly; compute_degree!

/-- The shift form of `xtime` subtracts the modulus when `x^8` comes up. -/
theorem bitPoly_xtime (a : Byte) : bitPoly (xtime a) = X * bitPoly a + if a.getLsbD 7 then aesPoly else 0 := by
  have hmask : bitPoly (0x1b : Byte) = X ^ 4 + X ^ 3 + X + 1 := by
    simp [bitPoly, Fin.sum_univ_succ]; ring
  have htwo : (2 : (ZMod 2)[X]) = 0 := CharTwo.two_eq_zero
  rw [xtime, ← bitPoly_shiftLeft_one (n := 7) a]
  split
  · rw [bitPoly_xor, hmask, aesPoly]
    linear_combination (-X ^ 8) * htwo
  · simp

/-- A byte as an element of the ring of R77. -/
noncomputable def gf (a : Byte) : AdjoinRoot aesPoly := AdjoinRoot.mk aesPoly (bitPoly a)

/-- The polynomial of a byte is the reduced representative of its element. -/
theorem bitPoly_eq_modByMonicHom (a : Byte) : bitPoly a = AdjoinRoot.modByMonicHom aesPoly_monic (gf a) := by
  rw [gf, AdjoinRoot.modByMonicHom_mk]
  exact ((modByMonic_eq_self_iff aesPoly_monic).mpr (degree_aesPoly ▸ degree_bitPoly_lt a)).symm

theorem gf_injective : Function.Injective gf := by
  intro a b h
  apply bitPoly_injective
  rw [bitPoly_eq_modByMonicHom, bitPoly_eq_modByMonicHom, h]

theorem gf_zero : gf 0 = 0 := by rw [gf, bitPoly_zero, map_zero]

@[simp] theorem gf_one : gf 1#8 = 1 := by
  have hone : bitPoly 1#8 = 1 := by simp [bitPoly]
  rw [gf, hone, map_one]

theorem gf_two : gf 2#8 = AdjoinRoot.root aesPoly := by
  have htwo : bitPoly 2#8 = X := by simp [bitPoly, Fin.sum_univ_succ]
  rw [gf, htwo, AdjoinRoot.mk_X]

theorem gf_xor (a b : Byte) : gf (a ^^^ b) = gf a + gf b := by rw [gf, bitPoly_xor, map_add, gf, gf]

theorem gf_three : gf 3#8 = AdjoinRoot.root aesPoly + 1 := by
  rw [show 3#8 = 2#8 ^^^ 1#8 from rfl, gf_xor, gf_two, gf_one]

theorem gf_xtime (a : Byte) : gf (xtime a) = AdjoinRoot.root aesPoly * gf a := by
  have hmod : AdjoinRoot.mk aesPoly (if a.getLsbD 7 then aesPoly else 0) = 0 := by split <;> simp
  rw [gf, bitPoly_xtime, map_add, hmod, add_zero, map_mul, AdjoinRoot.mk_X, gf]

theorem gf_xtimes (i : Nat) (a : Byte) : gf (xtimes i a) = AdjoinRoot.root aesPoly ^ i * gf a := by
  induction i with
  | zero => rw [xtimes, pow_zero, one_mul]
  | succ i ih => rw [xtimes, gf_xtime, ih, pow_succ', mul_assoc]

/-- The loop of `gmul`, stopped after the bits below `n`. -/
theorem gf_foldl_xtimes (a b : Byte) (n : Nat) :
    gf ((List.range n).foldl (fun acc i => if b.getLsbD i then acc ^^^ xtimes i a else acc) 0) =
      gf a * ∑ i ∈ Finset.range n, if b.getLsbD i then AdjoinRoot.root aesPoly ^ i else 0 := by
  induction n with
  | zero => rw [Finset.sum_range_zero, mul_zero]; exact gf_zero
  | succ n ih =>
    rw [List.range_succ, List.foldl_append, Finset.sum_range_succ, mul_add, List.foldl_cons, List.foldl_nil]
    by_cases hb : b.getLsbD n
    · rw [if_pos hb, if_pos hb, gf_xor, ih, gf_xtimes, mul_comm (gf a) (_ ^ n)]
    · rw [if_neg hb, if_neg hb, ih, mul_zero, add_zero]

theorem gf_gmul (a b : Byte) : gf (gmul a b) = gf a * gf b := by
  have hb : gf b = ∑ i ∈ Finset.range 8, if b.getLsbD i then AdjoinRoot.root aesPoly ^ i else 0 := by
    rw [gf, bitPoly, map_sum, Finset.sum_range]
    simp [apply_ite (AdjoinRoot.mk aesPoly)]
  rw [gmul, gf_foldl_xtimes, hb]

@[simp] theorem gmul_one_left (a : Byte) : gmul 1#8 a = a :=
  gf_injective (by rw [gf_gmul, gf_one, one_mul])

@[simp] theorem gmul_two_left (a : Byte) : gmul 2#8 a = xtime a :=
  gf_injective (by rw [gf_gmul, gf_two, gf_xtime])

@[simp] theorem gmul_three_left (a : Byte) : gmul 3#8 a = xtime a ^^^ a := by
  apply gf_injective
  rw [gf_gmul, gf_xor, gf_xtime, gf_three, add_mul, one_mul]

theorem bitPoly_gmul (a b : Byte) : bitPoly (gmul a b) = (bitPoly a * bitPoly b) %ₘ aesPoly := by
  rw [bitPoly_eq_modByMonicHom, gf_gmul, gf, gf, ← map_mul, AdjoinRoot.modByMonicHom_mk]

/-- Settles O46: `gmul` is the product of the ring of R77, read off at the reduced representatives. -/
theorem gmulIsPolynomialMultiplication : Obligations.GmulIsPolynomialMultiplication :=
  ⟨bitPoly_gmul, fun _ => rfl, fun a => ⟨gmul_two_left a, gmul_three_left a⟩⟩

/-! ### The S-box (R74, R75) -/

/-- The affine map of R74. -/
def sboxAffine (b : Byte) : Byte :=
  b ^^^ b.rotateLeft 1 ^^^ b.rotateLeft 2 ^^^ b.rotateLeft 3 ^^^ b.rotateLeft 4 ^^^ 0x63

/-- The affine map of R74 undone. -/
def sboxAffineInv (b : Byte) : Byte := b.rotateLeft 1 ^^^ b.rotateLeft 3 ^^^ b.rotateLeft 6 ^^^ 0x05

/-- The inverse of R74, as the table holds it. -/
def tableInv (a : Byte) : Byte := sboxAffineInv (sbox a)

theorem sboxAffine_sboxAffineInv : ∀ c, sboxAffine (sboxAffineInv c) = c := by decide +kernel

theorem sbox_eq_sboxAffine_tableInv (a : Byte) : sbox a = sboxAffine (tableInv a) :=
  (sboxAffine_sboxAffineInv (sbox a)).symm

/-- The table against R77, entry by entry. -/
theorem gmul_tableInv : ∀ a : Byte, a ≠ 0 → gmul a (tableInv a) = 1 := by decide +kernel

theorem tableInv_zero : tableInv 0 = 0 := by decide

theorem gmul_inv_unique {a b c : Byte} (hb : gmul a b = 1) (hc : gmul a c = 1) : b = c := by
  have hgf : ∀ {d}, gmul a d = 1#8 → gf a * gf d = 1 := fun h => by rw [← gf_gmul, h, gf_one]
  exact gf_injective (inv_unique (hgf hb) (hgf hc))

theorem gmul_comm (a b : Byte) : gmul a b = gmul b a :=
  gf_injective (by rw [gf_gmul, gf_gmul, mul_comm])

theorem gmul_zero_left (b : Byte) : gmul 0 b = 0 :=
  gf_injective (by rw [gf_gmul, gf_zero, zero_mul])

theorem tableInv_of_gmul {a b : Byte} (h : gmul a b = 1) : tableInv a = b := by
  have ha : a ≠ 0 := by rintro rfl; rw [gmul_zero_left] at h; exact absurd h (by decide)
  exact gmul_inv_unique (gmul_tableInv a ha) h

theorem tableInv_tableInv (a : Byte) : tableInv (tableInv a) = a := by
  by_cases ha : a = 0
  · rw [ha, tableInv_zero, tableInv_zero]
  · exact tableInv_of_gmul ((gmul_comm _ _).trans (gmul_tableInv a ha))

/-- Inverting twice gives the byte back, so the table determines it. -/
theorem sbox_injective : Function.Injective sbox := by
  intro a b h
  have hinv : tableInv a = tableInv b := congrArg sboxAffineInv h
  rw [← tableInv_tableInv a, hinv, tableInv_tableInv]

/-- Settles O47: the table holds the inverses of R77, and an inverse determines its byte. -/
theorem sboxIsTheAffineInverse : Obligations.SboxIsTheAffineInverse := by
  refine ⟨by decide, fun a b h => ?_, fun a ha => ⟨_, gmul_tableInv a ha⟩,
    Finite.injective_iff_bijective.mp sbox_injective, fun s i => getElem_subBytes s i.val i.isLt⟩
  rw [sbox_eq_sboxAffine_tableInv, tableInv_of_gmul h, sboxAffine]

end Sys2Proof.Machine
end

section
/-! PROOFS. The steps of a round and the cipher (spec/40_aes_primitives.md R76, R78 to R80, R82). Every step is injective, so every
one is a bijection of the finite set of 16-byte sequences. -/

namespace Sys2Proof.Machine

/-! ### The steps of a round, byte by byte (R76, R78, R79) -/

/-- Settles O48: the formula at `i = r + 4c`, and all sixteen bytes of it. -/
theorem shiftRowsRotatesTheRows : Obligations.ShiftRowsRotatesTheRows := by
  refine fun s => ⟨fun r c => ?_, rfl⟩
  have hrow : (r.val + 4 * c.val) % 4 = r.val := by omega
  have hcol : (r.val + 4 * c.val) / 4 = c.val := by omega
  rw [getElem_shiftRows]
  simp only [hrow, hcol]

theorem getElem_mixColumns (s : Bytes16) (c r : Fin 4) :
    (mixColumns s)[4 * c.val + r.val] =
      (mixColumn s[4 * c.val] s[4 * c.val + 1] s[4 * c.val + 2] s[4 * c.val + 3])[r] := by
  have hrow : (4 * c.val + r.val) % 4 = r.val := by omega
  have hcol : (4 * c.val + r.val) / 4 = c.val := by omega
  simp [mixColumns, hrow, hcol]

theorem getElem_mixColumn (a0 a1 a2 a3 : Byte) (r : Fin 4) :
    (mixColumn a0 a1 a2 a3)[r] =
      gmul ((#v[2, 1, 1, 3] : Vector Byte 4)[r]) a0 ^^^ gmul ((#v[3, 2, 1, 1] : Vector Byte 4)[r]) a1 ^^^
      gmul ((#v[1, 3, 2, 1] : Vector Byte 4)[r]) a2 ^^^ gmul ((#v[1, 1, 3, 2] : Vector Byte 4)[r]) a3 := by
  fin_cases r <;> simp [mixColumn, mul2, mul3]

/-- Settles O49, column by column. -/
theorem mixColumnsIsTheMatrixProduct : Obligations.MixColumnsIsTheMatrixProduct := fun s c r =>
  (getElem_mixColumns s c r).trans (getElem_mixColumn _ _ _ _ r)

/-- Settles O50: both sides have the same bytes. -/
theorem addRoundKeyIsXor : Obligations.AddRoundKeyIsXor := by
  refine ⟨fun s k i => getElem_addRoundKey s k i.val i.isLt, fun s k => toBytes_injective ?_⟩
  ext i hi : 1
  have hbytes : ∀ b : Bytes16, (fromBytes b).extractLsb' (8 * i) 8 = b[i] := fun b => by
    rw [← getElem_toBytes _ _ hi, toBytes_fromBytes]
  rw [toBytes_fromBytes, getElem_addRoundKey, getElem_toBytes, BitVec.extractLsb'_xor, hbytes, hbytes]

/-! ### The cipher (R80, R82) -/

/-- Settles O51: the rounds of `cipher`, written out. -/
theorem cipherHasTenRounds : Obligations.CipherHasTenRounds :=
  ⟨fun w r j => getElem_roundKey w r j.val j.isLt, fun _ _ => rfl⟩

theorem finite_bytes16 : Finite Bytes16 :=
  Finite.of_injective fromBytes (Function.LeftInverse.injective toBytes_fromBytes)

theorem addRoundKey_injective (k : Bytes16) : Function.Injective (addRoundKey · k) := by
  intro s t h
  ext i hi : 1
  have hbyte : (addRoundKey s k)[i] = (addRoundKey t k)[i] := by rw [show addRoundKey s k = addRoundKey t k from h]
  rw [getElem_addRoundKey, getElem_addRoundKey] at hbyte
  exact (BitVec.xor_left_inj _).mp hbyte

theorem subBytes_injective : Function.Injective subBytes := by
  intro s t h
  ext i hi : 1
  apply sbox_injective
  rw [← getElem_subBytes, ← getElem_subBytes, h]

/-- Row `r` is turned back by `r` positions to the right. -/
theorem getElem_of_shiftRows (s : Bytes16) (i : Nat) (h : i < 16) :
    s[i] = (shiftRows s)[i % 4 + 4 * ((i / 4 + 4 - i % 4) % 4)]'(by omega) := by
  rw [getElem_shiftRows]
  exact getElem_congr_idx (by omega)

theorem shiftRows_injective : Function.Injective shiftRows := by
  intro s t h
  ext i hi : 1
  rw [getElem_of_shiftRows s i hi, getElem_of_shiftRows t i hi]
  simp only [h]

/-- Column `c` of a state (R72), over GF(2^8). -/
noncomputable def gfColumn (s : Bytes16) (c r : Fin 4) : AdjoinRoot aesPoly := gf s[4 * c.val + r.val]

theorem gfColumn_mixColumns (s : Bytes16) (c r : Fin 4) :
    gfColumn (mixColumns s) c r =
      AdjoinRoot.root aesPoly * gfColumn s c r + (AdjoinRoot.root aesPoly + 1) * gfColumn s c (r + 1) +
        gfColumn s c (r + 2) + gfColumn s c (r + 3) := by
  simp only [gfColumn, getElem_mixColumns, getElem_mixColumn, gf_xor, gf_gmul]
  fin_cases r <;> simp [gf_two, gf_three] <;> ring

/-- In characteristic 2 the matrix of R78 has an inverse, for any `x`: the matrix of AES decryption when `x` is the root of R77. -/
theorem circulant_inverse {R : Type*} [CommRing R] (htwo : (2 : R) = 0) (x : R) {a b : Fin 4 → R}
    (h : ∀ r, b r = x * a r + (x + 1) * a (r + 1) + a (r + 2) + a (r + 3)) (r : Fin 4) :
    a r = (x ^ 3 + x ^ 2 + x) * b r + (x ^ 3 + x + 1) * b (r + 1) + (x ^ 3 + x ^ 2 + 1) * b (r + 2) +
      (x ^ 3 + 1) * b (r + 3) := by
  simp only [h, add_assoc r, Fin.reduceAdd, add_zero]
  linear_combination -((x ^ 4 + 2 * x ^ 3 + x ^ 2 + x + 1) * a r + (x ^ 4 + 2 * x ^ 3 + 2 * x ^ 2 + x + 1) * a (r + 1) +
    (x ^ 4 + 2 * x ^ 3 + x ^ 2 + 2 * x + 1) * (a (r + 2) + a (r + 3))) * htwo

theorem mixColumns_injective : Function.Injective mixColumns := by
  have htwo : (2 : AdjoinRoot aesPoly) = 0 := calc
    (2 : AdjoinRoot aesPoly) = gf 1#8 + gf 1#8 := by rw [gf_one, one_add_one_eq_two]
    _ = gf (1#8 ^^^ 1#8) := (gf_xor _ _).symm
    _ = 0 := gf_zero
  intro s t h
  have hcolumn : ∀ c, gfColumn s c = gfColumn t c := fun c => by
    funext r
    rw [circulant_inverse htwo _ (gfColumn_mixColumns s c) r, circulant_inverse htwo _ (gfColumn_mixColumns t c) r, h]
  ext i hi : 1
  apply gf_injective
  have hbyte := congrFun (hcolumn ⟨i / 4, by omega⟩) ⟨i % 4, by omega⟩
  simpa only [gfColumn, Nat.div_add_mod] using hbyte

theorem cipherRound_injective (k : Bytes16) : Function.Injective (cipherRound k) :=
  (addRoundKey_injective k).comp (mixColumns_injective.comp (shiftRows_injective.comp subBytes_injective))

theorem finalRound_injective (k : Bytes16) : Function.Injective (finalRound k) :=
  (addRoundKey_injective k).comp (shiftRows_injective.comp subBytes_injective)

theorem foldl_cipherRound_injective (w : Bytes176) (rs : List (Fin 11)) :
    Function.Injective fun s => rs.foldl (fun s r => cipherRound (roundKey w r) s) s := by
  induction rs with
  | nil => exact Function.injective_id
  | cons r rs ih => exact ih.comp (cipherRound_injective (roundKey w r))

theorem cipher_injective (w : Bytes176) : Function.Injective (cipher w) := by
  intro s t h
  rw [cipher, cipher] at h
  exact addRoundKey_injective _ (foldl_cipherRound_injective w _ (finalRound_injective _ h))

/-- Settles O52: the cipher is a composition of injective steps on a finite set. -/
theorem cipherIsAPermutation : Obligations.CipherIsAPermutation := fun w =>
  have := finite_bytes16
  Finite.injective_iff_bijective.mp (cipher_injective w)

end Sys2Proof.Machine
end

section
/-! PROOFS. The recurrence of the key expansion and the round constants (spec/40_aes_primitives.md R73, R81). -/

namespace Sys2Proof.Machine

/-! ### The words of the expansion (R73) -/

theorem length_keyWords (k : Bytes16) (n : Nat) : (keyWords k n).length = n + 4 := by
  induction n with
  | zero => rfl
  | succ n ih => rw [keyWords, List.length_append, ih, List.length_singleton]

/-- A word, once built, stays. -/
theorem wordAt_keyWords_of_le (k : Bytes16) {m n i : Nat} (hmn : m ≤ n) (hi : i < m + 4) :
    wordAt (keyWords k n) i = wordAt (keyWords k m) i := by
  induction n, hmn using Nat.le_induction with
  | base => rfl
  | succ n hmn ih =>
    rw [← ih]
    exact List.getD_append _ _ _ _ (by rw [length_keyWords]; omega)

/-- The recurrence of R73: a new word is made of the word four before and the word before. -/
theorem wordAt_keyWords_add_four (k : Bytes16) {n N : Nat} (h : n < N) :
    wordAt (keyWords k N) (n + 4) =
      xorWord (wordAt (keyWords k N) n) (expandTemp (n + 4) (wordAt (keyWords k N) (n + 3))) := by
  have hnew : wordAt (keyWords k (n + 1)) (n + 4) =
      xorWord (wordAt (keyWords k n) n) (expandTemp (n + 4) (wordAt (keyWords k n) (n + 3))) := by
    rw [keyWords, wordAt, List.getD_append_right _ _ _ _ (length_keyWords k n).le, length_keyWords, Nat.sub_self,
      List.getD_cons_zero]
  rw [wordAt_keyWords_of_le k h (by omega), hnew, wordAt_keyWords_of_le k h.le (show n < n + 4 by omega),
    wordAt_keyWords_of_le k h.le (show n + 3 < n + 4 by omega)]

theorem getElem_xorWord (a b : Word4) (j : Nat) (h : j < 4) : (xorWord a b)[j] = a[j] ^^^ b[j] := by
  simp [xorWord]

theorem expandTemp_of_mod_ne (t : Word4) {i : Nat} (h : i % 4 ≠ 0) : expandTemp i t = t := if_neg h

/-- Where the constant enters: `SubWord(RotWord(t))`, its first byte XOR `RCON`. -/
theorem getElem_expandTemp_of_mod_eq (t : Word4) {i : Nat} (h : i % 4 = 0) (j : Fin 4) :
    (expandTemp i t)[j.val] = sbox t[(j.val + 1) % 4] ^^^ if j.val = 0 then rcon (i / 4) else 0 := by
  rw [expandTemp, if_pos h]
  fin_cases j <;> simp [addRcon, subWord, rotWord]

/-! ### The bytes of the buffer (R73, R81) -/

theorem getElem_keyExpand_word (k : Bytes16) (i j : Nat) (hi : i < 44) (hj : j < 4) :
    (keyExpand k)[4 * i + j] = (wordAt (keyWords k 40) i)[j] := by
  have hword : (4 * i + j) / 4 = i := by omega
  have hbyte : (4 * i + j) % 4 = j := by omega
  rw [getElem_keyExpand]
  simp only [hword, hbyte]

/-- The recurrence of R73, read on the bytes. -/
theorem getElem_keyExpand_recurrence (k : Bytes16) {i : Nat} (hi : 4 ≤ i) (h : i < 44) (j : Fin 4) :
    (keyExpand k)[4 * i + j.val] =
      (keyExpand k)[4 * (i - 4) + j.val] ^^^ (expandTemp i (wordAt (keyWords k 40) (i - 1)))[j.val] := by
  obtain ⟨n, rfl⟩ := Nat.exists_eq_add_of_le' hi
  rw [getElem_keyExpand_word k (n + 4) j h j.isLt, getElem_keyExpand_word k (n + 4 - 4) j (by omega) j.isLt,
    wordAt_keyWords_add_four k (show n < 40 by omega), getElem_xorWord]
  rfl

/-- Settles O45: the recurrence on the words of the expansion, read byte by byte. -/
theorem keyExpansionRecurrence : Obligations.KeyExpansionRecurrence := by
  refine ⟨fun k j => ?_, fun k i j hi h hmod => ?_, fun k i j hi h hmod => ?_, rfl, by decide⟩
  · have hkey := getElem_roundKey (keyExpand k) 0 j.val j.isLt
    simpa [roundKey_zero_keyExpand] using hkey.symm
  · rw [getElem_keyExpand_recurrence k hi h, expandTemp_of_mod_ne _ hmod, getElem_keyExpand_word k (i - 1) j (by omega) j.isLt]
  · rw [getElem_keyExpand_recurrence k hi h, getElem_expandTemp_of_mod_eq _ hmod,
      getElem_keyExpand_word k (i - 1) _ (by omega) (by omega), BitVec.xor_assoc]

end Sys2Proof.Machine
end

section
/-! PROOFS. The commands of BlockCipher (spec/41_blockcipher.md R103 to R107): KEYLOAD, KEYCOPY, KEYDROP and ENC on a live core by
the first cause that applies, ENC after a KEYLOAD, and `encrypt_value` as a permutation. -/

namespace Sys2Proof.Machine

/-! ### The causes of R150 steps 3 and 5 -/

theorem firstCause_eq_badCtx {i : Instr} {s : State} {c : Nat} (hused : c ∈ usedContexts i) (hc : s.nctx ≤ c) :
    firstCause i s = some .badCtx := by
  have hctx : (usedContexts i).any (fun d => s.nctx ≤ d) = true := List.any_eq_true.mpr ⟨c, hused, by simpa using hc⟩
  rw [firstCause, if_pos hctx]

theorem firstCause_eq_engine {i : Instr} {s : State} (hused : ∀ c ∈ usedContexts i, c < s.nctx)
    (hneed : ∀ c, neededContext i = some c → s.valid c = true) (hi : invokesEngine i = true) (he : s.engineOk = false) :
    firstCause i s = some .engine := by
  have hctx : (usedContexts i).any (fun c => s.nctx ≤ c) = false := by simpa using hused
  have hkey : (neededContext i).any (fun c => !s.valid c) = false := by
    rcases hc : neededContext i with _ | c
    · rfl
    · simp [hneed c hc]
  simp [firstCause, hctx, hkey, hi, he]

theorem exec_of_context_out_of_range {i : Instr} {s : State} {c : Nat} (hs : s.fault = none) (hused : c ∈ usedContexts i)
    (hc : s.nctx ≤ c) : exec i s = .next (faulted s .badCtx) :=
  exec_of_cause hs (firstCause_eq_badCtx hused hc)

theorem State.lt_nctx_of_valid {s : State} {c : Nat} (h : s.valid c = true) : c < s.nctx := by
  obtain ⟨rk, hrk⟩ := Option.isSome_iff_exists.mp h
  exact State.lt_nctx_of_rk hrk

theorem State.valid_of_rk {s : State} {c : Nat} {rk : Schedule} (h : s.rk c = some rk) : s.valid c = true := by
  rw [State.valid, h, Option.isSome_some]

/-! ### Commands whose one context is the one they need (KEYDROP, ENC, HASH, HASH2) -/

section OneContext

variable {i : Instr} {s : State} {c : Nat} (hs : s.fault = none) (hused : usedContexts i = [c])
  (hneed : neededContext i = some c)

include hs hused hneed

theorem exec_of_context_empty (hc : c < s.nctx) (hv : s.valid c = false) : exec i s = .next (faulted s .noKey) :=
  exec_of_needed_empty (by simpa [hused] using hc) hneed hs hv

theorem exec_of_engine_failure (hv : s.valid c = true) (hi : invokesEngine i = true) (he : s.engineOk = false) :
    exec i s = .next (faulted s .engine) :=
  exec_of_cause hs (firstCause_eq_engine (by simpa [hused] using State.lt_nctx_of_valid hv) (by simpa [hneed] using hv) hi he)

end OneContext

/-! ### KEYLOAD, KEYCOPY, KEYDROP and ENC on a live core (R103 to R106) -/

/-- Settles O15: KEYLOAD needs no context, so its causes are the range of `c` and the engine. -/
theorem keyloadConstructsAContext : Obligations.KeyloadConstructsAContext := by
  intro s c key hs
  have hrange : c < s.nctx → ∀ d ∈ usedContexts (.keyload c key), d < s.nctx := by simp [usedContexts]
  refine ⟨exec_of_context_out_of_range hs List.mem_cons_self, fun hc he => ?_, fun hc he => ?_⟩
  · exact exec_of_cause hs (firstCause_eq_engine (hrange hc) nofun rfl he)
  · exact exec_of_no_cause hs (firstCause_eq_none_iff.mpr ⟨hrange hc, nofun, fun _ => he⟩)

/-- Settles O16: the range of both numbers comes before `VALID[src]`, and the engine is no cause. -/
theorem keycopyDuplicatesAContext : Obligations.KeycopyDuplicatesAContext := by
  intro s d src hs
  have hrange : d < s.nctx → src < s.nctx → ∀ c ∈ usedContexts (.keycopy d src), c < s.nctx := by
    simp +contextual [usedContexts]
  refine ⟨fun hout => ?_, fun hd hsrc hv => ?_, fun rk hd hrk => ?_⟩
  · rcases hout with hd | hsrc
    · exact exec_of_context_out_of_range hs (by simp [usedContexts]) hd
    · exact exec_of_context_out_of_range hs (by simp [usedContexts]) hsrc
  · exact exec_of_needed_empty (hrange hd hsrc) rfl hs hv
  · have hcause : firstCause (.keycopy d src) s = none := by
      refine firstCause_eq_none_iff.mpr ⟨hrange hd (State.lt_nctx_of_rk hrk), fun c hc => ?_, nofun⟩
      exact Option.some.inj hc ▸ State.valid_of_rk hrk
    rw [exec_of_no_cause hs hcause, commandEffect, hrk]
    rfl

/-- Settles O17: KEYDROP uses and needs the one context `c`. -/
theorem keydropEmptiesAContext : Obligations.KeydropEmptiesAContext := by
  intro s c hs
  refine ⟨exec_of_context_out_of_range hs List.mem_cons_self, exec_of_context_empty hs rfl rfl, fun hv => ?_⟩
  refine exec_of_no_cause hs (firstCause_eq_none_iff.mpr ⟨?_, fun d hd => ?_, nofun⟩)
  · simpa [usedContexts] using State.lt_nctx_of_valid hv
  · exact Option.some.inj hd ▸ hv

/-- Settles O18: ENC uses and needs the one context `c`, then the engine. -/
theorem encReturnsTheCiphertext : Obligations.EncReturnsTheCiphertext := by
  intro s c x hs
  exact ⟨exec_of_context_out_of_range hs List.mem_cons_self, exec_of_context_empty hs rfl rfl,
    fun hv => exec_of_engine_failure hs rfl rfl hv rfl, fun _ hrk he => exec_enc_completes hs hrk he x⟩

/-! ### ENC after KEYLOAD (R107) -/

/-- Commands in a row run the first one and then the others. -/
theorem execAll_cons {i : Instr} {is : List Instr} {s u : State} (h : execAll (i :: is) s = .next u) :
    ∃ t, exec i s = .next t ∧ execAll is t = .next u := by
  obtain ⟨t, ht⟩ := exists_exec_next i s
  rw [execAll, ht] at h
  exact ⟨t, ht, h⟩

/-- What each of the commands keeps, all of them keep. -/
theorem execAll_keeps {p : State → Prop} {is : List Instr}
    (hkeep : ∀ i ∈ is, ∀ s t, exec i s = .next t → p s → p t) {s u : State} (hs : p s) (hx : execAll is s = .next u) :
    p u := by
  induction is generalizing s with
  | nil =>
    cases hx
    exact hs
  | cons i is ih =>
    obtain ⟨t, ht, hu⟩ := execAll_cons hx
    exact ih (fun j hj => hkeep j (List.mem_cons_of_mem i hj)) (hkeep i List.mem_cons_self s t ht hs) hu

theorem execAll_engineOk {is : List Instr} {s u : State} (hx : execAll is s = .next u) : u.engineOk = s.engineOk :=
  execAll_keeps (p := fun v => v.engineOk = s.engineOk) (fun _ _ _ _ hi hv => (exec_keeps_ports hi).2.trans hv) rfl hx

theorem execAll_rk_of_not_written {is : List Instr} {s u : State} {c : Nat} (hw : ∀ i ∈ is, writtenContext i ≠ some c)
    (hx : execAll is s = .next u) : u.rk c = s.rk c :=
  execAll_keeps (p := fun v => v.rk c = s.rk c) (fun i hi _ _ hj hv => (exec_rk_of_not_written hj (hw i hi)).trans hv) rfl hx

/-- Settles O41: `c` holds `ScheduleOf(k)` after the KEYLOAD, and the commands in between leave it there. -/
theorem encAfterKeyloadIsDeterministic : Obligations.EncAfterKeyloadIsDeterministic := by
  intro s t u c k x is hs hc he hload hw hx hu
  have ht : t.fault = none := by
    obtain ⟨-, -, hcompletes⟩ := keyloadConstructsAContext s c k hs
    rw [hcompletes hc he] at hload
    cases hload
    exact hs
  have hrk : u.rk c = some (scheduleOf k) := calc
    u.rk c = t.rk c := execAll_rk_of_not_written hw hx
    _ = some (scheduleOf k) := exec_keyload_rk hload ht
  have hengine : u.engineOk = true := calc
    u.engineOk = t.engineOk := execAll_engineOk hx
    _ = s.engineOk := (exec_keeps_ports hload).2
    _ = true := he
  exact exec_enc_completes hu hrk hengine x

/-! ### `encrypt_value` is a permutation (R107) -/

theorem toBytes_bijective : Function.Bijective toBytes :=
  Function.bijective_iff_has_inverse.mpr ⟨fromBytes, fromBytes_toBytes, toBytes_fromBytes⟩

theorem fromBytes_bijective : Function.Bijective fromBytes :=
  Function.bijective_iff_has_inverse.mpr ⟨toBytes, toBytes_fromBytes, fromBytes_toBytes⟩

/-- Settles O53: the cipher under a schedule permutes the byte sequences, which the byte order matches with the values. -/
theorem encryptValueIsAPermutation : Obligations.EncryptValueIsAPermutation := fun s =>
  fromBytes_bijective.comp ((cipherIsAPermutation (scheduleBytes s)).comp toBytes_bijective)

end Sys2Proof.Machine
end

section
/-! PROOFS. The field doubler (spec/42_fielddouble.md R120 to R122): `double` bit by bit, as multiplication by `x` in GF(2^128), as
a linear bijection, and DBL on a live core. -/

namespace Sys2Proof.Machine

open Polynomial

/-! ### The bits of `double` (R120) -/

/-- The constant of R120 is XORed in when the old bit 127 is set. -/
theorem getLsbD_double (v : Block) (i : Nat) :
    (double v).getLsbD i = ((v <<< 1).getLsbD i ^^ (v.getLsbD 127 && (0x87 : Block).getLsbD i)) := by
  rw [double]
  split
  next h => rw [BitVec.getLsbD_xor, h, Bool.true_and]
  next h => rw [Bool.eq_false_of_not_eq_true h, Bool.false_and, Bool.xor_false]

theorem getLsbD_double_zero (v : Block) : (double v).getLsbD 0 = v.getLsbD 127 := by
  rw [getLsbD_double, BitVec.getLsbD_shiftLeft]
  simp

theorem getLsbD_double_succ (v : Block) {i : Nat} (h : i < 127) :
    (double v).getLsbD (i + 1) = (v.getLsbD i ^^ (v.getLsbD 127 && (0x87 : Block).getLsbD (i + 1))) := by
  have hlt : i + 1 < 128 := by omega
  rw [getLsbD_double, BitVec.getLsbD_shiftLeft]
  simp [hlt]

/-- The set bits of the constant of R120. -/
theorem getLsbD_reductionConstant_iff :
    ∀ i : Fin 128, (0x87 : Block).getLsbD i = true ↔ i ∈ ({0, 1, 2, 7} : Finset (Fin 128)) := by decide

/-- Settles O54: above bit 0 the set bits of the constant are 1, 2 and 7. -/
theorem doubleBitByBit : Obligations.DoubleBitByBit := by
  intro v
  refine ⟨getLsbD_double_zero v, fun i hi => ?_, fun i hpos hle h1 h2 h7 => ?_, fun h => if_neg (h ▸ nofun),
    fun h => if_pos h⟩
  · rcases hi with rfl | rfl | rfl
    all_goals
      rw [getLsbD_double_succ v (by decide)]
      simp
  · obtain ⟨j, rfl⟩ := Nat.exists_eq_add_of_le' hpos
    have hclear : ¬ (0x87 : Block).getLsbD (j + 1) = true := by
      rw [getLsbD_reductionConstant_iff ⟨j + 1, by omega⟩]
      simp only [Finset.mem_insert, Finset.mem_singleton, Fin.ext_iff]
      rintro (h | h | h | h)
      all_goals contradiction
    rw [getLsbD_double_succ v (by omega), Bool.eq_false_of_not_eq_true hclear, Bool.and_false, Bool.xor_false,
      Nat.add_sub_cancel]

/-! ### GF(2^128) (R122) -/

/-- The modulus of R122. -/
noncomputable def doublePoly : (ZMod 2)[X] := X ^ 128 + X ^ 7 + X ^ 2 + X + 1

theorem doublePoly_monic : doublePoly.Monic := by
  unfold doublePoly; monicity!

theorem degree_doublePoly : doublePoly.degree = (128 : Nat) := by
  unfold doublePoly; compute_degree!

theorem doublePoly_eq : doublePoly = X ^ 128 + bitPoly (0x87 : Block) := by
  have hmask : bitPoly (0x87 : Block) = X ^ 7 + X ^ 2 + X + 1 := by
    rw [bitPoly, Finset.sum_congr rfl fun i _ => if_congr (getLsbD_reductionConstant_iff i) rfl rfl, Finset.sum_ite_mem]
    simp
    ring
  unfold doublePoly
  simp only [hmask, add_assoc]

/-- The shift form of `double` subtracts the modulus when `x^128` comes up. -/
theorem bitPoly_double (v : Block) :
    bitPoly (double v) + doublePoly * (if v.getLsbD 127 then 1 else 0) = X * bitPoly v := by
  rw [double, ← bitPoly_shiftLeft_one (n := 127) v]
  split
  · have hcancel : bitPoly (0x87 : Block) + bitPoly (0x87 : Block) = 0 := CharTwo.add_self_eq_zero _
    rw [bitPoly_xor, doublePoly_eq, mul_one, add_comm (X ^ 128), add_assoc, ← add_assoc _ _ (X ^ 128), hcancel, zero_add]
  · rw [mul_zero]

/-- A bit vector as long as the degree of the modulus is the remainder of every polynomial it is congruent to. -/
theorem bitPoly_eq_modByMonic {n : Nat} {v : BitVec n} {p q f : (ZMod 2)[X]} (hp : p.Monic) (hdeg : p.degree = n)
    (h : bitPoly v + p * q = f) : bitPoly v = f %ₘ p :=
  (div_modByMonic_unique q _ hp ⟨h, hdeg ▸ degree_bitPoly_lt v⟩).2.symm

theorem bitPoly_double_eq_modByMonic (v : Block) : bitPoly (double v) = (X * bitPoly v) %ₘ doublePoly :=
  bitPoly_eq_modByMonic doublePoly_monic degree_doublePoly (bitPoly_double v)

/-- Settles O55: the obligation's polynomials are `bitPoly` and `doublePoly` written out. -/
theorem doubleIsMultiplicationByX : Obligations.DoubleIsMultiplicationByX := by
  intro v
  have h := bitPoly_double_eq_modByMonic v
  unfold doublePoly bitPoly at h
  exact h

/-! ### Linearity and the inverse (R122) -/

/-- Multiplication by `x` and the remainder are linear. -/
theorem double_xor (a b : Block) : double (a ^^^ b) = double a ^^^ double b := by
  apply bitPoly_injective
  simp only [bitPoly_xor, bitPoly_double_eq_modByMonic, mul_add, add_modByMonic]

/-- The bit that `halve` puts at the top. -/
theorem getLsbD_topBit : ∀ i : Fin 128, ((1 <<< 127 : Nat) : Block).getLsbD i = decide (i = 127) := by decide

theorem getLsbD_halve_top (w : Block) : (halve w).getLsbD 127 = w.getLsbD 0 := by
  rw [halve]
  split
  next h =>
    have htop : ((1 <<< 127 : Nat) : Block).getLsbD 127 = true := getLsbD_topBit 127
    rw [BitVec.getLsbD_or, htop, Bool.or_true, h]
  next h => rw [BitVec.getLsbD_ushiftRight, Bool.eq_false_of_not_eq_true h, BitVec.getLsbD_of_ge w _ (by decide)]

theorem getLsbD_halve (w : Block) {i : Nat} (hi : i < 127) :
    (halve w).getLsbD i = (w.getLsbD (i + 1) ^^ (w.getLsbD 0 && (0x87 : Block).getLsbD (i + 1))) := by
  rw [halve]
  split
  next h =>
    have htop : ((1 <<< 127 : Nat) : Block).getLsbD i = false := by
      rw [getLsbD_topBit ⟨i, by omega⟩, decide_eq_false (Fin.ne_of_lt hi)]
    rw [BitVec.getLsbD_or, htop, Bool.or_false, BitVec.getLsbD_ushiftRight, BitVec.getLsbD_xor, h, Bool.true_and, add_comm]
  next h =>
    rw [BitVec.getLsbD_ushiftRight, Bool.eq_false_of_not_eq_true h, Bool.false_and, Bool.xor_false, add_comm]

/-- Bit by bit, the constant is XORed in and out again. -/
theorem halve_leftInverse_double : Function.LeftInverse halve double := by
  intro v
  refine BitVec.eq_of_getLsbD_eq fun i hi => ?_
  obtain hlt | rfl : i < 127 ∨ i = 127 := by omega
  · rw [getLsbD_halve _ hlt, getLsbD_double_zero, getLsbD_double_succ v hlt, Bool.xor_assoc, Bool.xor_self, Bool.xor_false]
  · rw [getLsbD_halve_top, getLsbD_double_zero]

/-- Settles O56: on a finite type a left inverse is an inverse on both sides. -/
theorem doubleIsALinearBijection : Obligations.DoubleIsALinearBijection := by
  have hsurj : Function.Surjective double := Finite.surjective_of_injective halve_leftInverse_double.injective
  exact ⟨double_xor, by decide, halve_leftInverse_double, halve_leftInverse_double.rightInverse_of_surjective hsurj⟩

/-! ### DBL (R121) -/

/-- Settles O19: DBL uses no context and no engine, so no cause applies to it. -/
theorem dblReturnsTheDouble : Obligations.DblReturnsTheDouble := fun _ _ hs =>
  exec_of_no_cause hs (firstCause_eq_none_iff.mpr ⟨nofun, nofun, nofun⟩)

end Sys2Proof.Machine
end

section
/-! PROOFS. The tweak hashes (spec/43_tweakhash.md R130 to R135): `hash` and `hash2` as functions of their operands, and HASH and
HASH2 on a live core. -/

namespace Sys2Proof.Machine

/-! ### The functions `hash` and `hash2` (R130, R131) -/

theorem tweakHash_eq (rk : Schedule) (tweak x : Block) :
    tweakHash rk tweak x = encryptValue rk x ^^^ double x ^^^ tweak := by
  rw [tweakHash, BitVec.xor_assoc]

theorem tweakHash2_eq (rk : Schedule) (tweak x y : Block) :
    tweakHash2 rk tweak x y = tweakHash rk tweak (x ^^^ double y) := rfl

theorem double_zero : double 0 = 0#128 := by decide

/-- `hash` without its tweak is a mask XORed to the tweak, so the same XOR takes the hash back to the tweak. -/
theorem tweakHash_involutive (rk : Schedule) (x : Block) : Function.Involutive fun tweak => tweakHash rk tweak x := by
  intro tweak
  simp only [tweakHash_eq]
  rw [← BitVec.xor_assoc, BitVec.xor_self, BitVec.zero_xor]

theorem tweakHash_zero (rk : Schedule) (tweak : Block) : tweakHash rk tweak 0 = encryptValue rk 0 ^^^ tweak := by
  rw [tweakHash_eq, double_zero, BitVec.xor_zero]

/-- Settles O58: the tweak is XORed last, and `double` takes 0 to 0. -/
theorem tweakHashCornerCases : Obligations.TweakHashCornerCases := by
  intro rk tweak e x y
  refine ⟨?_, (tweakHash_involutive rk x).bijective, tweakHash_zero rk tweak, ?_, ?_⟩
  · rw [tweakHash_eq, tweakHash_eq, BitVec.xor_assoc _ tweak e]
  · rw [tweakHash2_eq, double_zero, BitVec.xor_zero]
  · rw [tweakHash2_eq, BitVec.xor_self]
    exact tweakHash_zero rk tweak

/-! ### HASH and HASH2 on a live core (R132, R133) -/

theorem exec_hash_completes {s : State} {c : Nat} {rk : Schedule} (hs : s.fault = none) (hrk : s.rk c = some rk)
    (he : s.engineOk = true) (tweak x : Block) :
    exec (.hash c tweak x) s = .next (s.deliver (some (tweakHash rk tweak x))) := by
  have hcause : firstCause (.hash c tweak x) s = none := by
    refine firstCause_eq_none_iff.mpr ⟨?_, fun d hd => ?_, fun _ => he⟩
    · simpa [usedContexts] using State.lt_nctx_of_rk hrk
    · exact Option.some.inj hd ▸ State.valid_of_rk hrk
  rw [exec_of_no_cause hs hcause, commandEffect, resultBlock, hrk, Option.map_some]

/-- Settles O20: HASH uses and needs the one context `c`, then the engine. -/
theorem hashReturnsTheTweakHash : Obligations.HashReturnsTheTweakHash := by
  intro s c tweak x hs
  refine ⟨exec_of_context_out_of_range hs List.mem_cons_self, exec_of_context_empty hs rfl rfl,
    fun hv => exec_of_engine_failure hs rfl rfl hv rfl, fun rk hrk he => ?_⟩
  rw [← tweakHash_eq]
  exact exec_hash_completes hs hrk he tweak x

/-- The two commands make the same checks (R132, R133), and `hash2` is `hash` on `x ^ double(y)` (R131). -/
theorem exec_hash2_eq_exec_hash (s : State) (c : Nat) (tweak x y : Block) :
    exec (.hash2 c tweak x y) s = exec (.hash c tweak (x ^^^ double y)) s := by
  simp only [exec, execHash2, execHash, tweakHash2_eq]

/-- Settles O21: HASH2 is HASH on `x ^ double(y)`. -/
theorem hash2ReturnsTheTweakHash : Obligations.Hash2ReturnsTheTweakHash := by
  intro s c tweak x y hs
  rw [exec_hash2_eq_exec_hash]
  exact hashReturnsTheTweakHash s c tweak (x ^^^ double y) hs

/-- Settles O57: the response to DBL holds `double(y)`, which is what HASH2 XORs to `x`. -/
theorem hash2IsHashOfTheDoubledXor : Obligations.Hash2IsHashOfTheDoubledXor := fun s c tweak x y hs =>
  ⟨double y, dblReturnsTheDouble s y hs, exec_hash2_eq_exec_hash s c tweak x y⟩

end Sys2Proof.Machine
end

section
/-! PROOFS. The system command STAT (spec/44_system.md R140), on a live core and on a halted one. -/

namespace Sys2Proof.Machine

/-- Settles O22: a live core raises no fault on STAT, whose effect is the response alone; a halted core's fault response is that
same response. -/
theorem statReportsStatus : Obligations.StatReportsStatus := by
  intro s
  cases hf : s.fault with
  | none => exact exec_of_no_cause hf (firstCause_eq_none_iff.mpr ⟨nofun, nofun, nofun⟩)
  | some k => exact exec_halted .stat hf

end Sys2Proof.Machine
end

section
/-! PROOFS. Faults and the halted state (spec/60_exceptions.md R150 to R156): what a command event does to a halted core and to a
live one, which causes each command has, and the totality of the step. -/

namespace Sys2Proof.Machine

/-! ### The step is total (R150), and idle with no event pending (R166) -/

/-- Settles O10: the port has no event to take. -/
theorem idleCoreHoldsItsState : Obligations.IdleCoreHoldsItsState := fun _ hev => State.takeEvent_idle hev exec

theorem exists_step_next (s : State) : ∃ t, step s = .next t := by
  rcases hev : s.events with _ | ⟨⟨cmd, ok⟩ | _, rest⟩
  case nil => exact ⟨s, idleCoreHoldsItsState s hev⟩
  case cons.reset => exact ⟨_, step_reset hev⟩
  case cons.command =>
    rcases hd : decode cmd.header cmd.ops with e | i
    · exact ⟨_, step_malformed hev hd⟩
    · rw [stepRunsTheDecodedCommand s cmd ok rest i hev hd]
      exact exists_exec_next i _

/-- Settles O13: every kind of event has a next state, and so has every command. -/
theorem everyStepHasANextState : Obligations.EveryStepHasANextState := ⟨exists_step_next, exists_exec_next⟩

/-! ### A command event on a halted core and on a live one (R150) -/

/-- A halted core answers a command event with the fault response, whether the command decodes or not (R150 step 1). -/
theorem step_command_halted {s : State} {k : Cause} {cmd : Command} {ok : Bool} {rest : List Event}
    (hk : s.fault = some k) (hev : s.events = .command cmd ok :: rest) : step s = .next (s.accept rest ok).respond := by
  rcases hd : decode cmd.header cmd.ops with e | i
  · rw [step_malformed hev hd, State.rejectMalformed, State.unlessHalted_halted (s := s.accept rest ok) hk]
  · rw [stepRunsTheDecodedCommand s cmd ok rest i hev hd]
    exact exec_halted i hk

theorem step_command_halted_fault {s t : State} {k : Cause} {cmd : Command} {ok : Bool} {rest : List Event}
    (hk : s.fault = some k) (hev : s.events = .command cmd ok :: rest) (hx : step s = .next t) : t.fault = some k := by
  rw [step_command_halted hk hev] at hx
  cases hx
  exact hk

/-- The three things a command event can do: a halted core answers it, a live core takes a fault on it, or it decodes to a command
that completes. -/
theorem step_command_cases {s t : State} {cmd : Command} {ok : Bool} {rest : List Event}
    (hev : s.events = .command cmd ok :: rest) (hx : step s = .next t) :
    (∃ k, s.fault = some k ∧ t = (s.accept rest ok).respond) ∨
    (∃ k, s.fault = none ∧ t = faulted (s.accept rest ok) k) ∨
    (∃ i, s.fault = none ∧ decode cmd.header cmd.ops = .ok i ∧ firstCause i (s.accept rest ok) = none ∧
      t = (commandEffect (s.accept rest ok) i).deliver (resultBlock (s.accept rest ok) i)) := by
  rcases hs : s.fault with _ | k
  case some =>
    rw [step_command_halted hs hev] at hx
    cases hx
    exact .inl ⟨k, rfl, rfl⟩
  case none =>
    rcases hd : decode cmd.header cmd.ops with e | i
    · rw [step_malformed hev hd, State.rejectMalformed_live (s := s.accept rest ok) hs] at hx
      cases hx
      exact .inr (.inl ⟨.illegalCmd, rfl, rfl⟩)
    · rw [stepRunsTheDecodedCommand s cmd ok rest i hev hd] at hx
      obtain ⟨k, hk, -⟩ | ⟨k, -, -, rfl⟩ | ⟨-, hc, rfl⟩ := exec_cases hx
      · exact absurd (hs.symm.trans hk) nofun
      · exact .inr (.inl ⟨k, rfl, rfl⟩)
      · exact .inr (.inr ⟨i, rfl, rfl, hc, rfl⟩)

/-- Settles O23: raising a fault is the two writes and the response; a halted core looks at no command. -/
theorem haltedCoreIsFrozen : Obligations.HaltedCoreIsFrozen :=
  ⟨fun _ _ _ => rfl, fun _ _ _ _ _ hk hev => step_command_halted hk hev⟩

/-- Settles O25: a core halted after the event was halted before it or has taken a fault on it, and neither writes a context. -/
theorem faultsArePrecise : Obligations.FaultsArePrecise := by
  intro s t cmd ok rest k hev hx hk
  obtain ⟨_, -, rfl⟩ | ⟨_, -, rfl⟩ | ⟨i, hs, -, -, rfl⟩ := step_command_cases hev hx
  · exact ⟨rfl, rfl⟩
  · exact ⟨rfl, rfl⟩
  · simp [hs] at hk

/-! ### Which cause is recorded (R151, R152, R155) -/

theorem exec_live_fault {i : Instr} {s t : State} (hs : s.fault = none) (hx : exec i s = .next t) :
    t.fault = firstCause i s := by
  rcases hc : firstCause i s with _ | k
  · rw [exec_of_no_cause hs hc] at hx
    cases hx
    simpa using hs
  · rw [exec_of_cause hs hc] at hx
    cases hx
    rfl

/-- Settles O24: the fault a live core takes is the first cause, by its definition in R150's order. -/
theorem firstApplicableCauseIsReported : Obligations.FirstApplicableCauseIsReported := by
  refine ⟨fun i s t hs hx => exec_live_fault hs hx, fun s t cmd ok rest hs hev hmal hx => ?_,
    fun s t k cmd ok rest hk hev hx => step_command_halted_fault hk hev hx⟩
  rw [malformedCommandRaisesIllegalCmd s cmd ok rest hev hs hmal] at hx
  cases hx
  rfl

/-- What has failed where a cause is reported (R150 steps 3 to 5). -/
theorem firstCause_eq_some_cases {i : Instr} {s : State} {k : Cause} (h : firstCause i s = some k) :
    (k = .badCtx ∧ ∃ c ∈ usedContexts i, s.nctx ≤ c) ∨
    (k = .noKey ∧ ∃ c, neededContext i = some c ∧ s.valid c = false) ∨
    (k = .engine ∧ invokesEngine i = true ∧ s.engineOk = false) := by
  rw [firstCause] at h
  split_ifs at h with hctx hkey heng <;> cases h
  · exact .inl ⟨rfl, by simpa using hctx⟩
  · exact .inr (.inl ⟨rfl, by simpa [Option.any_eq_true] using hkey⟩)
  · exact .inr (.inr ⟨rfl, by simpa using heng⟩)

/-- The causes each command cannot have (R152): it does not make the check that reports them. -/
theorem firstCause_of_opcode {i : Instr} {s : State} {k : Cause} (h : firstCause i s = some k) :
    i.opcode ≠ .dbl ∧ i.opcode ≠ .stat ∧ (i.opcode = .keyload → k ≠ .noKey) ∧
      (i.opcode = .keycopy ∨ i.opcode = .keydrop → k ≠ .engine) := by
  obtain ⟨rfl, c, hused, -⟩ | ⟨rfl, c, hneed, -⟩ | ⟨rfl, hengine, -⟩ := firstCause_eq_some_cases h
  · cases i <;> simp [usedContexts, Instr.opcode] at hused ⊢
  · cases i <;> simp [neededContext, Instr.opcode] at hneed ⊢
  · cases i <;> simp [invokesEngine, Instr.opcode] at hengine ⊢

/-- The context needed is the last one used, KEYLOAD alone needing none. -/
theorem neededContext_eq (i : Instr) :
    neededContext i = if i.opcode = .keyload then none else (usedContexts i).getLast? := by
  cases i <;> rfl

theorem invokesEngine_eq (i : Instr) : invokesEngine i = decide (i.opcode ∈ [.keyload, .enc, .hash, .hash2]) := by
  cases i <;> rfl

theorem firstCause_congr_operands {i j : Instr} (h : sameButOperands i j = true) (s : State) :
    firstCause i s = firstCause j s := by
  obtain ⟨hop, hused⟩ : i.opcode = j.opcode ∧ usedContexts i = usedContexts j := by simpa [sameButOperands] using h
  simp only [firstCause, neededContext_eq, invokesEngine_eq, hop, hused]

/-- Settles O26: the cause is the first that applies, and the checks look at the operation and the contexts it names alone. -/
theorem faultsRecordOnlyTheirCause : Obligations.FaultsRecordOnlyTheirCause := by
  refine ⟨fun i s t k hs hx hk => ?_, fun i j s t u hs hsame ht hu => ?_⟩
  · have hc : firstCause i s = some k := (exec_live_fault hs hx).symm.trans hk
    rw [exec_of_cause hs hc] at hx
    cases hx
    exact ⟨rfl, firstCause_of_opcode hc⟩
  · rw [exec_live_fault hs ht, exec_live_fault hs hu, firstCause_congr_operands hsame]

/-! ### Only reset leaves the halted state (R156) -/

/-- Settles O27: with no event the core holds its state, and a command event leaves the cause; the rest is the store after reset. -/
theorem onlyResetLeavesTheHaltedState : Obligations.OnlyResetLeavesTheHaltedState := by
  intro s t hs hx hne
  obtain ⟨k, hk⟩ := Option.ne_none_iff_exists'.mp hs
  rcases hev : s.events with _ | ⟨⟨cmd, ok⟩ | _, rest⟩
  case nil =>
    rw [idleCoreHoldsItsState s hev] at hx
    cases hx
    exact absurd rfl hne
  case cons.command => exact absurd ((step_command_halted_fault hk hev hx).trans hk.symm) hne
  case cons.reset =>
    rw [step_reset hev] at hx
    cases hx
    refine ⟨rest, rfl, rfl, fun c => ?_⟩
    rw [rk_after_reset]
    split_ifs with h
    · exact .inr ⟨h.1, rfl⟩
    · exact .inl rfl

end Sys2Proof.Machine
end

section
/-! PROOFS. Runs of commands that respect the host's duties (spec/60_exceptions.md R157; spec/70_reset_and_hazards.md R187). -/

namespace Sys2Proof.Machine

/-! ### Runs, event by event (R187) -/

theorem runEvents_nil (s : State) : runEvents s [] = .next { s with events := [] } := rfl

/-- A run takes its first event and runs the others from there. -/
theorem runEvents_cons {s t : State} {e : Event} {es : List Event} (hx : step { s with events := e :: es } = .next t)
    (ht : t.events = es) : runEvents s (e :: es) = runEvents t es := by
  have hstep : core.step { s with events := e :: es } = .next t := hx
  subst ht
  simp only [runEvents, List.length_cons, Host.Core.run, hstep]
  rfl

/-! ### Which contexts are loaded after a command (R16) -/

theorem State.valid_setRk {s : State} {c : Nat} (hc : c < s.nctx) (v : Option Schedule) (d : Nat) :
    (s.setRk c v).valid d = if d = c then v.isSome else s.valid d := by
  rw [State.valid, State.rk_setRk]
  simp only [hc, and_true]
  split_ifs <;> rfl

/-- `loadedAfter` says what VALID becomes when no cause applies. -/
theorem commandEffect_valid {i : Instr} {s : State} (hc : firstCause i s = none) :
    (commandEffect s i).valid = loadedAfter s.valid i := by
  obtain ⟨hused, hneed, -⟩ := firstCause_eq_none_iff.mp hc
  funext d
  cases i with
  | keyload c _ | keydrop c => exact State.valid_setRk (hused c List.mem_cons_self) _ d
  | keycopy c src =>
    have hsrc : (s.rk src).isSome = true := hneed src rfl
    rw [commandEffect, State.valid_setRk (hused c List.mem_cons_self), hsrc, loadedAfter]
  | enc _ _ | dbl _ | hash _ _ _ | hash2 _ _ _ _ | stat => rfl

/-! ### Dutiful sequences (R157) -/

/-- The first command of a dutiful sequence completes, and leaves a core on which the rest of the sequence is dutiful. -/
theorem step_dutiful {s : State} {i : Instr} {is : List Instr} (es : List Event) (hs : s.fault = none)
    (hduty : respectsDuties s.nctx s.valid (i :: is)) :
    ∃ t, step { s with events := .command (encode i) true :: es } = .next t ∧ t.events = es ∧ t.fault = none ∧
      t.responses.length = s.responses.length + 1 ∧ respectsDuties t.nctx t.valid is := by
  obtain ⟨hwf, hused, hneed, hrest⟩ := hduty
  have hc : firstCause i (s.accept es true) = none := firstCause_eq_none_iff.mpr ⟨hused, hneed, fun _ => rfl⟩
  refine ⟨(commandEffect (s.accept es true) i).deliver (resultBlock (s.accept es true) i), ?_, by simp, by simpa using hs,
    by simp, ?_⟩
  · rw [stepRunsTheDecodedCommand _ (encode i) true es i rfl (decodeOfEncodeIsIdentity i hwf)]
    exact exec_of_no_cause hs hc
  · have hvalid : (commandEffect (s.accept es true) i).valid = loadedAfter s.valid i := commandEffect_valid hc
    have hnctx : (commandEffect (s.accept es true) i).nctx = s.nctx := by simp
    rwa [← hvalid, ← hnctx] at hrest

/-- Settles O37: by induction on the sequence, each command completing on the core the ones before it have left. -/
theorem dutifulSequencesNeverFault : Obligations.DutifulSequencesNeverFault := by
  intro s is hs hduty
  induction is generalizing s with
  | nil => exact ⟨_, runEvents_nil s, hs, rfl, rfl⟩
  | cons i is ih =>
    obtain ⟨t, hx, hev, ht, hlen, hrest⟩ := step_dutiful (is.map fun i => .command (encode i) true) hs hduty
    obtain ⟨u, hu, huf, hue, hulen⟩ := ih t ht hrest
    refine ⟨u, (runEvents_cons hx hev).trans hu, huf, hue, ?_⟩
    rw [hulen, hlen, List.length_cons]
    omega

end Sys2Proof.Machine
end
